-- ==== Sys2Proof/Word.lean ====
section
/-! DEFINITION. The two word types of the CPU08: bytes and 16-bit addresses (00_scope.md R6, R7). -/

namespace Sys2Proof

/-- An 8-bit memory cell or register value (R6, R51). -/
abbrev Byte := BitVec 8

/-- A 16-bit address, or the value of SP, PC or H:X (R6). -/
abbrev Addr := BitVec 16

/-- The bit number field of BSET, BCLR, BRSET, BRCLR: opcode bits 3:1 (30_encoding.md R96). -/
abbrev BitNum := BitVec 3

end Sys2Proof
end

