-- ==== Sys2Proof/Config.lean ====
section
/-! DEFINITION. What a platform fixes (the OPEN parameters of 00_scope.md R6 and 92_eei_decisions.md
part 2) and the free values (`draw_n()` of 00_scope.md R11). The parameters are plain data, held in a
field of State that no step changes, so a statement over all states holds for every platform. -/

namespace Sys2Proof.Config

/-- `draw_8()`: the free byte of the n-th draw. It has no body: nothing can be proved of its value (log 8). -/
opaque freeByte : Nat → Byte

/-- `draw_1()`: the free bit of the n-th draw (log 8). -/
opaque freeBit : Nat → Bool

/-- U11: the free number of bus cycles that an interrupt entry or a reset takes (log 28). -/
opaque freeCycles : Nat → Nat

/-- What stands behind an address: the values of `MemMap` (20_memory.md R61). -/
inductive Kind where
  /-- reads and writes reach the memory cell -/
  | ram
  /-- Flash or mask ROM: reads return the programmed byte, writes do not change it -/
  | rom
  /-- reads and writes go to a device, of which the spec gives no model (U16) -/
  | io (device : Nat)
  /-- nothing stands there -/
  | unimplemented
deriving DecidableEq, Repr

/-- A block of the address map: the `size` addresses from `base` on, modulo 65536. -/
structure Region where
  base : Addr
  size : Nat
  kind : Kind
deriving DecidableEq, Repr

/-- `MemMap` as plain data: the first region that holds the address decides, else `otherwise`. -/
structure MemMap where
  regions : List Region
  otherwise : Kind
deriving DecidableEq, Repr

/-- `IllegalAddressBehaviour` (R61, U9). -/
inductive IllegalAddress where
  /-- the model stops with the fault IllegalAddress: the default -/
  | fault
  /-- reads return a draw, writes are ignored -/
  | drawAndIgnore
deriving DecidableEq, Repr

/-- One entry of `IntSources` (60_exceptions.md R304). Its `pending` predicate is membership of
State's `pending`; `acknowledge` clears the request exactly when `selfClearing` (log 19). -/
structure IntSource where
  vector : Addr
  priority : Nat
  wakesStop : Bool
  selfClearing : Bool
deriving DecidableEq, Repr

/-- The named arguments of the model (00_scope.md R6). The bus clock frequency, which R6 lists as OPEN and
on which no rule depends, is left out: DESIGN CHOICE, log 41. -/
structure Platform where
  memMap : MemMap
  illegalAddress : IllegalAddress
  intSources : List IntSource
  stopEnabled : Bool
  clrReadsFirst : Bool
deriving DecidableEq, Repr

/-- VEC_RESET (00_scope.md R6). -/
def vecReset : Addr := 0xFFFE

/-- VEC_SWI (00_scope.md R6). -/
def vecSwi : Addr := 0xFFFC

/-- The vector of the external IRQ pin (00_scope.md R6). -/
def vecIrq : Addr := 0xFFFA

/-- The one interrupt source the spec names. That its request is self-clearing and wakes STOP are
the values of the spec's own examples (45_bcd_special.md R294, program P7). DESIGN CHOICE, log 4. -/
def irqSource : IntSource :=
  { vector := vecIrq, priority := 0, wakesStop := true, selfClearing := true }

/-- The platform of State.reset: the defaults of 92_eei_decisions.md part 2. DESIGN CHOICE, log 3 to 7. -/
def defaultPlatform : Platform :=
  { memMap := { regions := [], otherwise := .ram }
    illegalAddress := .fault
    intSources := [irqSource]
    stopEnabled := true
    clrReadsFirst := false }

/-- One sample of the environment's inputs, taken at the start of a step (60_exceptions.md R317):
the reset line, the level of the IRQ pin, and the requests that appear or go away. -/
structure EnvSample where
  resetRequested : Bool
  irqPin : Bool
  raised : List IntSource
  withdrawn : List IntSource
deriving DecidableEq, Repr

end Sys2Proof.Config
end

