-- ==== Sys2Proof/Machine/Bits.lean ====
section
/-! DEFINITION. Slices, concatenation and extension of words (00_scope.md R7). -/

namespace Sys2Proof.Machine

/-- `v[15:8]`. -/
def hiByte (w : Addr) : Byte := w.extractLsb' 8 8

/-- `v[7:0]`. -/
def loByte (w : Addr) : Byte := w.extractLsb' 0 8

/-- `hi:lo`, the high byte first (20_memory.md R52, R53). -/
def word (hi lo : Byte) : Addr := hi ++ lo

/-- `sext_16(v)`: bits 15:8 copy v[7]. -/
def sext16 (v : Byte) : Addr := v.signExtend 16

/-- `zext_16(v)`: bits 15:8 are zero. -/
def zext16 (v : Byte) : Addr := v.setWidth 16

/-- `$00:dd`, an address of the direct page (20_memory.md R59). -/
def directAddr (dd : Byte) : Addr := word 0x00 dd

end Sys2Proof.Machine
end

