-- ==== Sys2Proof/Machine/Memory.lean ====
section
/-! DEFINITION. The 65536 byte cells as a list of (address, byte) pairs in one canonical form:
addresses strictly rising, no entry equal to what an unlisted address reads as (10_state.md R36,
20_memory.md R50, R51). -/

namespace Sys2Proof.Machine

/-- The memory cells that hold something else than `Memory.unlisted`. -/
abbrev Memory := List Host.Cell

/-- What an unlisted address reads as. The spec leaves RAM after power-on unspecified (U7); its test
vectors take $00 ("Memory not mentioned holds $00"). DESIGN CHOICE, unsafe, log 1. -/
def Memory.unlisted : Byte := 0x00

/-- The byte at an address. -/
def Memory.read : Memory → Nat → Byte
  | [], _ => Memory.unlisted
  | (k, b) :: m, a => if k = a then b else Memory.read m a

/-- The memory with nothing listed at an address. -/
def Memory.erase (m : Memory) (a : Nat) : Memory := m.filter fun c => c.1 ≠ a

/-- An entry put before the first entry of a higher address. -/
def Memory.insert : Memory → Nat → Byte → Memory
  | [], a, v => [(a, v)]
  | (k, b) :: m, a, v => if a < k then (a, v) :: (k, b) :: m else (k, b) :: Memory.insert m a v

/-- One byte written; the canonical form is kept. -/
def Memory.write (m : Memory) (a : Nat) (v : Byte) : Memory :=
  if v = Memory.unlisted then Memory.erase m a else Memory.insert (Memory.erase m a) a v

/-- Bytes written at consecutive addresses from `a` on, modulo 65536: loading from outside the machine. -/
def Memory.load (m : Memory) (a : Addr) : List Byte → Memory
  | [] => m
  | b :: bs => Memory.load (Memory.write m a.toNat b) (a + 1) bs

/-- The canonical form: addresses strictly rising and inside the 64 KiB space, no entry equal to what
an unlisted address reads as. -/
abbrev Memory.wf (m : Memory) : Prop :=
  m.Pairwise (fun c d => c.1 < d.1) ∧ ∀ c ∈ m, c.2 ≠ Memory.unlisted ∧ c.1 < 65536

end Sys2Proof.Machine
end

