-- ==== Sys2Proof/Machine/State.lean ====
section
/-! DEFINITION. The state of the CPU08 (10_state.md) as plain data, the reasons a step can stop, and
the state after reset. -/

namespace Sys2Proof.Machine

/-- The condition code register `V:1:1:HC:I:N:Z:C` (R27). Bits 6 and 5 are constant 1 and have no
storage (R34). -/
@[ext]
structure Ccr where
  /-- two's-complement overflow, bit 7 (R28) -/
  v : Bool
  /-- half carry, bit 4 (R29) -/
  hc : Bool
  /-- interrupt mask, bit 3 (R30) -/
  i : Bool
  /-- negative, bit 2 (R31) -/
  n : Bool
  /-- zero, bit 1 (R32) -/
  z : Bool
  /-- carry or borrow, bit 0 (R33) -/
  c : Bool
deriving DecidableEq, Repr

/-- The power states (R37, R316). -/
inductive RunMode where
  | running
  | waiting
  | stopped
deriving DecidableEq, Repr

/-- A byte of the instruction at an instruction's own `PCnext` that this instruction overwrote (20_memory.md
R66, 93_implementation_defined.md U8). -/
structure StaleByte where
  /-- `PCnext` of the instruction that wrote it -/
  next : Addr
  addr : Addr
  /-- the byte before the write; memory holds the one after it -/
  old : Byte
deriving DecidableEq, Repr

/-- Everything the machine holds (10_state.md R20, R36, R37) and the model's own fields. -/
@[ext]
structure State where
  /-- the accumulator A (R21) -/
  a : Byte
  /-- the index register low byte X (R22) -/
  x : Byte
  /-- the index register high byte H (R23) -/
  h : Byte
  /-- the stack pointer SP, the address of the next free byte (R25) -/
  sp : Addr
  /-- the program counter PC (R26); while an instruction executes it holds PCnext (log 32) -/
  pc : Addr
  /-- the condition code register (R27) -/
  ccr : Ccr
  /-- the memory cells (R36) -/
  mem : Memory
  /-- the power state `mode` (R37, R316) -/
  mode : RunMode
  /-- `inhibit_next`, the CLI delay (R37) -/
  inhibitNext : Bool
  /-- `pending`, the set of requesting interrupt sources, without repeats (R37) -/
  pending : List Config.IntSource
  /-- `irq_pin`, the level sampled for this step (R37) -/
  irqPin : Bool
  /-- `reset_requested`, sampled for this step (R317) -/
  resetRequested : Bool
  /-- the named arguments of the model (00_scope.md R6); no step changes it (log 3) -/
  platform : Config.Platform
  /-- the model's own: the samples of the environment still to come (R317, log 15) -/
  inputs : List Config.EnvSample
  /-- the model's own: how many free values have been drawn (00_scope.md R11, log 8) -/
  draws : Nat
  /-- the model's own: bytes overwritten at an instruction's own `PCnext` and neither executed nor stored to since,
  of which the old or the new one is executed (R66, R348, U8, log 14) -/
  stale : List StaleByte
  /-- the model's own: ghost count of bus cycles (92_eei_decisions.md D34, log 28) -/
  cycles : Nat
deriving DecidableEq, Repr

/-- Why the machine stops (60_exceptions.md R301). Both faults carry the state it stops in (log 13). -/
inductive Fault where
  /-- Raised by the fetch of an illegal encoding, and by STOP where the platform disables it; `addr` is
  the address of the first byte and the state is as before the fetch. On the chip an MCU reset follows;
  the model stops there: safe (log 11). -/
  | illegalOpcode (addr : Addr) (stopped : State)
  /-- Raised by any read, write or fetch at an address the platform's map calls unimplemented, under
  the default behaviour; what the instruction did before stays done. On some parts an MCU reset
  follows; the model stops there: safe (log 12). -/
  | illegalAddress (addr : Addr) (stopped : State)
deriving DecidableEq, Repr

/-- Why there is no meaning for an instruction. -/
inductive Refusal where
  /-- Raised by a dispatch arm whose instruction has no meaning yet; no arm raises it. Safe. -/
  | notModelled (mnemonic : String)
deriving DecidableEq, Repr

/-- The outcome of a step or of an instruction. -/
abbrev Result := Host.Outcome State Fault Refusal

/-! ## Updates, one for each field -/

def State.setA (s : State) (a : Byte) : State := { s with a := a }

def State.setX (s : State) (x : Byte) : State := { s with x := x }

def State.setH (s : State) (h : Byte) : State := { s with h := h }

def State.setSp (s : State) (sp : Addr) : State := { s with sp := sp }

def State.setPc (s : State) (pc : Addr) : State := { s with pc := pc }

def State.setCcr (s : State) (ccr : Ccr) : State := { s with ccr := ccr }

def State.setMem (s : State) (mem : Memory) : State := { s with mem := mem }

def State.setMode (s : State) (mode : RunMode) : State := { s with mode := mode }

def State.setInhibitNext (s : State) (inhibitNext : Bool) : State := { s with inhibitNext := inhibitNext }

def State.setPending (s : State) (pending : List Config.IntSource) : State := { s with pending := pending }

def State.setIrqPin (s : State) (irqPin : Bool) : State := { s with irqPin := irqPin }

def State.setResetRequested (s : State) (resetRequested : Bool) : State := { s with resetRequested := resetRequested }

def State.setInputs (s : State) (inputs : List Config.EnvSample) : State := { s with inputs := inputs }

def State.setDraws (s : State) (draws : Nat) : State := { s with draws := draws }

def State.setStale (s : State) (stale : List StaleByte) : State := { s with stale := stale }

def State.setCycles (s : State) (cycles : Nat) : State := { s with cycles := cycles }

/-! ## Reset -/

/-- Memory right after power-on, with nothing loaded: nothing is listed (log 1). -/
def resetMemory : Memory := []

/-- The machine right after reset (R38, R340): H, SP, I, mode and inhibit_next as the spec states them,
PC from the reset vector. A, X and the flags V, HC, N, Z, C have no stated value: $00 and 0 are
DESIGN CHOICE (log 2), as are the inputs (log 16, 17), the platform (log 3 to 7) and the model's own
fields (log 8, 14, 15, 28). -/
def State.reset : State :=
  { a := 0x00
    x := 0x00
    h := 0x00
    sp := 0x00FF
    pc := word (Memory.read resetMemory 0xFFFE) (Memory.read resetMemory 0xFFFF)
    ccr := { v := false, hc := false, i := true, n := false, z := false, c := false }
    mem := resetMemory
    mode := .running
    inhibitNext := false
    pending := []
    irqPin := true
    resetRequested := false
    platform := Config.defaultPlatform
    inputs := []
    draws := 0
    stale := []
    cycles := 0 }

end Sys2Proof.Machine
end

