-- ==== Sys2Proof/Machine/Flags.lean ====
section
/-! DEFINITION. The condition code byte and every flag computation of the spec (00_scope.md R12 to R14,
the Flags lines of 40_ to 45_). An operation on one byte takes the operand and the flags before it and
gives the result with the flags after it; what it does not name stays. -/

namespace Sys2Proof.Machine

/-! ## The CCR as a byte -/

/-- `V:1:1:HC:I:N:Z:C` (R27, R34). -/
def Ccr.toByte (f : Ccr) : Byte :=
  BitVec.ofBool f.v ++ 1#1 ++ 1#1 ++ BitVec.ofBool f.hc ++ BitVec.ofBool f.i ++ BitVec.ofBool f.n ++
    BitVec.ofBool f.z ++ BitVec.ofBool f.c

/-- `CCR <- b`: bits 6 and 5 are ignored (R34). -/
def Ccr.ofByte (b : Byte) : Ccr :=
  { v := b.getLsbD 7, hc := b.getLsbD 4, i := b.getLsbD 3
    n := b.getLsbD 2, z := b.getLsbD 1, c := b.getLsbD 0 }

/-! ## Flag helpers -/

/-- `NZ8(r)` (R12). -/
def Ccr.nz8 (f : Ccr) (r : Byte) : Ccr := { f with n := r.msb, z := r == 0 }

/-- `NZ16(r)` (R12). -/
def Ccr.nz16 (f : Ccr) (r : Addr) : Ccr := { f with n := r.msb, z := r == 0 }

/-- `V <- 0; NZ8(r)`: loads, stores, MOV, TST and the logical operations. -/
def Ccr.moved8 (f : Ccr) (r : Byte) : Ccr := { f.nz8 r with v := false }

/-- `V <- 0; NZ16(r)`: LDHX and STHX. -/
def Ccr.moved16 (f : Ccr) (r : Addr) : Ccr := { f.nz16 r with v := false }

/-- `ADD8(a, m, cin)` (R13). -/
def add8 (a m : Byte) (cin : Bool) (f : Ccr) : Byte × Ccr :=
  let sum := a.toNat + m.toNat + cin.toNat
  let r := BitVec.ofNat 8 sum
  (r, { f.nz8 r with
    c := decide (256 ≤ sum)
    hc := decide (16 ≤ a.toNat % 16 + m.toNat % 16 + cin.toNat)
    v := (a.msb && m.msb && !r.msb) || (!a.msb && !m.msb && r.msb) })

/-- `SUB8(a, m, bin)` (R14). HC and I are not written. -/
def sub8 (a m : Byte) (bin : Bool) (f : Ccr) : Byte × Ccr :=
  let d : Int := (a.toNat : Int) - m.toNat - bin.toNat
  let r := BitVec.ofInt 8 d
  (r, { f.nz8 r with
    c := decide (d < 0)
    v := (a.msb && !m.msb && !r.msb) || (!a.msb && m.msb && r.msb) })

/-- `SUB16(a, m)` (R14). -/
def sub16 (a m : Addr) (f : Ccr) : Addr × Ccr :=
  let d : Int := (a.toNat : Int) - m.toNat
  let r := BitVec.ofInt 16 d
  (r, { f.nz16 r with
    c := decide (d < 0)
    v := (a.msb && !m.msb && !r.msb) || (!a.msb && m.msb && r.msb) })

/-! ## Operations on the accumulator and an operand -/

/-- ADD (R160). -/
def addOp (a m : Byte) (f : Ccr) : Byte × Ccr := add8 a m false f

/-- ADC: the carry-in is the old C (R161). -/
def adcOp (a m : Byte) (f : Ccr) : Byte × Ccr := add8 a m f.c f

/-- SUB, and the comparison of CMP and CPX (R162, R170, R171). -/
def subOp (a m : Byte) (f : Ccr) : Byte × Ccr := sub8 a m false f

/-- SBC: the borrow-in is the old C (R163). -/
def sbcOp (a m : Byte) (f : Ccr) : Byte × Ccr := sub8 a m f.c f

/-- AND and the test of BIT (R200, R203). -/
def andOp (a m : Byte) (f : Ccr) : Byte × Ccr := (a &&& m, f.moved8 (a &&& m))

/-- ORA (R201). -/
def oraOp (a m : Byte) (f : Ccr) : Byte × Ccr := (a ||| m, f.moved8 (a ||| m))

/-- EOR (R202). -/
def eorOp (a m : Byte) (f : Ccr) : Byte × Ccr := (a ^^^ m, f.moved8 (a ^^^ m))

/-! ## Operations of the read-modify-write group -/

/-- INC: C is not written (R166). -/
def incOp (m : Byte) (f : Ccr) : Byte × Ccr := (m + 1, { f.nz8 (m + 1) with v := m == 0x7F })

/-- DEC: C is not written (R167). -/
def decOp (m : Byte) (f : Ccr) : Byte × Ccr := (m - 1, { f.nz8 (m - 1) with v := m == 0x80 })

/-- COM: C is set (R168). -/
def comOp (m : Byte) (f : Ccr) : Byte × Ccr := (0xFF - m, { f.nz8 (0xFF - m) with v := false, c := true })

/-- NEG (R169). -/
def negOp (m : Byte) (f : Ccr) : Byte × Ccr := sub8 0x00 m false f

/-- The flags of CLR: C is not written (R173). -/
def Ccr.cleared (f : Ccr) : Ccr := { f with v := false, n := false, z := true }

/-- Flags common to the shifts and rotates: C is the bit shifted out, `V <- N xor C` after the
operation (head of 43_shifts_rotates.md). -/
def Ccr.shifted (f : Ccr) (r : Byte) (out : Bool) : Ccr := { f.nz8 r with c := out, v := r.msb ^^ out }

/-- LSL and ASL (R222, R220). -/
def lslOp (m : Byte) (f : Ccr) : Byte × Ccr := (m <<< 1, f.shifted (m <<< 1) (m.getLsbD 7))

/-- ASR: bit 7 is copied into itself (R221). -/
def asrOp (m : Byte) (f : Ccr) : Byte × Ccr :=
  let r := (m >>> 1) ||| (m &&& 0x80)
  (r, f.shifted r (m.getLsbD 0))

/-- LSR: a 0 enters bit 7 (R223). -/
def lsrOp (m : Byte) (f : Ccr) : Byte × Ccr := (m >>> 1, f.shifted (m >>> 1) (m.getLsbD 0))

/-- ROL: the old C enters bit 0 (R224). -/
def rolOp (m : Byte) (f : Ccr) : Byte × Ccr :=
  let r := (m <<< 1) ||| (BitVec.ofBool f.c).setWidth 8
  (r, f.shifted r (m.getLsbD 7))

/-- ROR: the old C enters bit 7 (R225). -/
def rorOp (m : Byte) (f : Ccr) : Byte × Ccr :=
  let r := (m >>> 1) ||| (BitVec.ofBool f.c).setWidth 8 <<< 7
  (r, f.shifted r (m.getLsbD 0))

/-! ## Decimal adjustment -/

/-- The correction table of DAA, rows 1 to 9: the correction added and C after, by C and HC before and
the two digits of A (R290). -/
def daaRow (c hc : Bool) (hi lo : Nat) : Option (Byte × Bool) :=
  if c = false ∧ hi ≤ 9 ∧ hc = false ∧ lo ≤ 9 then some (0x00, false)
  else if c = false ∧ hi ≤ 8 ∧ hc = false ∧ 10 ≤ lo then some (0x06, false)
  else if c = false ∧ hi ≤ 9 ∧ hc = true ∧ lo ≤ 3 then some (0x06, false)
  else if c = false ∧ 10 ≤ hi ∧ hc = false ∧ lo ≤ 9 then some (0x60, true)
  else if c = false ∧ 9 ≤ hi ∧ hc = false ∧ 10 ≤ lo then some (0x66, true)
  else if c = false ∧ 10 ≤ hi ∧ hc = true ∧ lo ≤ 3 then some (0x66, true)
  else if c = true ∧ hi ≤ 2 ∧ hc = false ∧ lo ≤ 9 then some (0x60, true)
  else if c = true ∧ hi ≤ 2 ∧ hc = false ∧ 10 ≤ lo then some (0x66, true)
  else if c = true ∧ hi ≤ 3 ∧ hc = true ∧ lo ≤ 3 then some (0x66, true)
  else none

/-! ## Branch conditions (44_program_control.md R240) -/

/-- BHI: `(C or Z) == 0`. -/
def Ccr.higher (f : Ccr) : Bool := !(f.c || f.z)

/-- BGE: `(N xor V) == 0`. -/
def Ccr.greaterEq (f : Ccr) : Bool := !(f.n ^^ f.v)

/-- BGT: `(Z or (N xor V)) == 0`. -/
def Ccr.greater (f : Ccr) : Bool := !(f.z || (f.n ^^ f.v))

end Sys2Proof.Machine
end

