-- ==== Sys2Proof/Machine/Ops.lean ====
section
/-! DEFINITION. The named operations over registers and memory: draws, accesses under the platform's
address map, the stack, taking an exception and returning from one, interrupt recognition and reset.
An operation that accesses memory can stop in a fault; it answers the next state otherwise. -/

namespace Sys2Proof.Machine

/-- An access that can stop the machine in a fault. -/
abbrev Access (α : Type) := Except Fault α

/-- The outcome of an instruction from the access sequence that is its meaning. -/
def answer (r : Access State) : Result :=
  match r with
  | .ok s => .next s
  | .error f => .fault f

/-! ## H:X -/

/-- `HX` (R24). -/
def State.hx (s : State) : Addr := word s.h s.x

/-- `HX <- v`: H and X together (R11, R24). -/
def State.setHx (s : State) (v : Addr) : State := (s.setH (hiByte v)).setX (loByte v)

/-! ## Free values (R11 `draw_n()`, log 8) -/

/-- The value of the next 8-bit draw. -/
def State.freeByte (s : State) : Byte := Config.freeByte s.draws

/-- The value of the next 1-bit draw. -/
def State.freeBit (s : State) : Bool := Config.freeBit s.draws

/-- One draw has been made. -/
def State.drawn (s : State) : State := s.setDraws (s.draws + 1)

/-! ## The address map (20_memory.md R61) -/

/-- The address lies in the region; regions wrap modulo 65536. -/
def inRegion (r : Config.Region) (a : Addr) : Bool := (a - r.base).toNat < r.size

/-- `MemMap(addr)`: the first region that holds the address decides. -/
def kindIn (regions : List Config.Region) (otherwise : Config.Kind) (a : Addr) : Config.Kind :=
  match regions with
  | [] => otherwise
  | r :: rs => if inRegion r a then r.kind else kindIn rs otherwise a

/-- What stands behind an address on the state's platform. -/
def State.kindAt (s : State) (a : Addr) : Config.Kind :=
  kindIn s.platform.memMap.regions s.platform.memMap.otherwise a

/-- An access to the address does not stop the machine (R61, R301). -/
def State.answers (s : State) (a : Addr) : Bool :=
  match s.kindAt a, s.platform.illegalAddress with
  | .unimplemented, .fault => false
  | _, _ => true

/-- What a read at the address returns: the cell of RAM or ROM, else a free value (R61, U9, U16). -/
def State.byteAt (s : State) (a : Addr) : Byte :=
  match s.kindAt a with
  | .ram => s.mem.read a.toNat
  | .rom => s.mem.read a.toNat
  | .io _ => s.freeByte
  | .unimplemented => s.freeByte

/-- The state after a read at the address: a draw is made where the value was free. -/
def State.afterRead (s : State) (a : Addr) : State :=
  match s.kindAt a with
  | .ram => s
  | .rom => s
  | .io _ => s.drawn
  | .unimplemented => s.drawn

/-- The stale bytes once an address is stored to: every later fetch there sees the store, be the byte the same as
before or not (R66, R348). What the store leaves open at the instruction's own `PCnext` is added when the
instruction retires (U8, log 14). -/
def State.staleWithout (s : State) (a : Addr) : List StaleByte := s.stale.filter fun e => decide (e.addr ≠ a)

/-- The state after a write: RAM takes the byte; ROM keeps its own; a device takes the byte where the
model does not see it (log 24); nothing takes it where nothing stands (R61). -/
def State.afterWrite (s : State) (a : Addr) (v : Byte) : State :=
  match s.kindAt a with
  | .ram => (s.setMem (s.mem.write a.toNat v)).setStale (s.staleWithout a)
  | .rom => s
  | .io _ => s
  | .unimplemented => s

/-- `MemRead(addr, 1)` (R11). -/
def readByte (a : Addr) (s : State) : Access (Byte × State) :=
  if s.answers a then .ok (s.byteAt a, s.afterRead a) else .error (.illegalAddress a s)

/-- `MemWrite(addr, 1, v)` (R11). -/
def writeByte (a : Addr) (v : Byte) (s : State) : Access State :=
  if s.answers a then .ok (s.afterWrite a v) else .error (.illegalAddress a s)

/-- `MemRead(addr, 2)`: the high byte at `addr` first, then the low byte at `addr + 1` (R52, R55). -/
def readWord (a : Addr) (s : State) : Access (Addr × State) := do
  let (hi, s) ← readByte a s
  let (lo, s) ← readByte (a + 1) s
  return (word hi lo, s)

/-- `MemWrite(addr, 2, v)`: `v[15:8]` at `addr`, then `v[7:0]` at `addr + 1` (R52, R55). -/
def writeWord (a v : Addr) (s : State) : Access State := do
  let s ← writeByte a (hiByte v) s
  writeByte (a + 1) (loByte v) s

/-! ## The stack (20_memory.md R57) -/

/-- `Push8(v)`: `MemWrite(SP, 1, v); SP <- SP - 1`. -/
def push8 (v : Byte) (s : State) : Access State := do
  let s ← writeByte s.sp v s
  return s.setSp (s.sp - 1)

/-- `Pull8()`: `SP <- SP + 1; return MemRead(SP, 1)`. -/
def pull8 (s : State) : Access (Byte × State) := readByte (s.sp + 1) (s.setSp (s.sp + 1))

/-- A return address pushed, PCL first (R55). -/
def pushAddr (ret : Addr) (s : State) : Access State := do
  let s ← push8 (loByte ret) s
  push8 (hiByte ret) s

/-- A return address pulled, PCH first (R55). -/
def pullAddr (s : State) : Access (Addr × State) := do
  let (hi, s) ← pull8 s
  let (lo, s) ← pull8 s
  return (word hi lo, s)

/-! ## Taking an exception and returning from one -/

/-- `I <- b`. -/
def State.setI (s : State) (b : Bool) : State := s.setCcr { s.ccr with i := b }

/-- The five bytes of the interrupt frame pushed: PCL, PCH, X, A, CCR (R302). H is not stacked (R309). -/
def pushFrame (ret : Addr) (s : State) : Access State := do
  let s ← pushAddr ret s
  let s ← push8 s.x s
  let s ← push8 s.a s
  push8 s.ccr.toByte s

/-- `PC <- MemRead(vector, 1) : MemRead(vector + 1, 1)`. -/
def jumpVector (vector : Addr) (s : State) : Access State := do
  let (target, s) ← readWord vector s
  return s.setPc target

/-- `TrapEntry(vector, ret)` (R302): the frame is pushed, I is set, the mode is Running and PC is
loaded from the vector. -/
def trapEntry (vector ret : Addr) (s : State) : Access State := do
  let s ← pushFrame ret s
  jumpVector vector ((s.setI true).setMode .running)

/-- The return from an exception: CCR, A, X, PCH, PCL are pulled (R272, R307). H is not restored. -/
def returnFromTrap (s : State) : Access State := do
  let (c, s) ← pull8 s
  let s := s.setCcr (.ofByte c)
  let (a, s) ← pull8 s
  let s := s.setA a
  let (x, s) ← pull8 s
  let s := s.setX x
  let (pc, s) ← pullAddr s
  return s.setPc pc

/-! ## Control transfer -/

/-- `Rel(rr)`: PCnext plus the sign-extended displacement (R94). PC holds PCnext while an instruction
executes (log 32). -/
def State.rel (s : State) (rr : Byte) : Addr := s.pc + sext16 rr

/-- `if cond then PC <- Rel(rr) else PC <- PCnext` (R240). -/
def State.branchIf (s : State) (cond : Bool) (rr : Byte) : State :=
  if cond then s.setPc (s.rel rr) else s

/-! ## Environment inputs (R317, log 15) -/

/-- The requests after a sample: withdrawn ones go, raised ones of the platform's sources join the set
once (R304; log 20). -/
def mergeRequests (sources pending raised withdrawn : List Config.IntSource) : List Config.IntSource :=
  raised.foldl (fun p r => if r ∈ sources ∧ r ∉ p then p ++ [r] else p)
    (pending.filter fun r => r ∉ withdrawn)

/-- The inputs sampled once, at the start of a step. With no sample left, no reset is requested, no
request changes and the pin level is a free value (U15). -/
def State.sampled (s : State) : State :=
  match s.inputs with
  | [] => ((s.setIrqPin s.freeBit).setResetRequested false).drawn
  | e :: rest =>
    (((s.setInputs rest).setResetRequested e.resetRequested).setIrqPin e.irqPin).setPending
      (mergeRequests s.platform.intSources s.pending e.raised e.withdrawn)

/-! ## Interrupt recognition (60_exceptions.md R303, R305) -/

/-- The first source is to be taken before the second: higher priority, on a tie the higher vector
address, then the earlier one (R305, U12, log 18). -/
def outranks (p q : Config.IntSource) : Bool :=
  q.priority < p.priority || (p.priority == q.priority && q.vector.toNat ≤ p.vector.toNat)

/-- The highest-priority member of a set of sources. -/
def highest : List Config.IntSource → Option Config.IntSource
  | [] => none
  | p :: ps =>
    match highest ps with
    | none => some p
    | some q => if outranks p q then some p else some q

/-- The sources that can be recognised in the state's mode: every pending source of the platform; in
STOP only those that wake it (R316, R317). -/
def State.candidates (s : State) : List Config.IntSource :=
  s.pending.filter fun p =>
    decide (p ∈ s.platform.intSources) && (s.mode != .stopped || p.wakesStop)

/-- The source taken at this boundary: none while I is set or the CLI delay holds (R303). -/
def State.recognised (s : State) : Option Config.IntSource :=
  if s.ccr.i || s.inhibitNext then none else highest s.candidates

/-- `acknowledge(s)`: a self-clearing source's request goes (R303, R304, log 19). -/
def State.acknowledge (s : State) (p : Config.IntSource) : State :=
  if p.selfClearing then s.setPending (s.pending.filter fun q => q ≠ p) else s

/-- Bus cycles of an interrupt entry or a reset: a free number (U11, log 28). -/
def State.chargeFree (s : State) : State := (s.setCycles (s.cycles + Config.freeCycles s.draws)).drawn

/-- A recognised interrupt is taken: acknowledged, then `TrapEntry(s.vector, PC)` (R303). -/
def takeInterrupt (p : Config.IntSource) (s : State) : Access State :=
  trapEntry p.vector s.pc (s.acknowledge p).chargeFree

/-! ## Reset (70_reset_and_hazards.md R340) -/

/-- `Reset()`: H, SP, I, mode and inhibit_next are written and PC is loaded from the reset vector; A, X
and the other flags keep what they held (log 2). -/
def takeReset (s : State) : Access State :=
  jumpVector Config.vecReset
    (((((s.setH 0x00).setSp 0x00FF).setI true).setMode .running).setInhibitNext false).chargeFree

end Sys2Proof.Machine
end

