-- ==== Sys2Proof/Syntax.lean ====
section
/-! DEFINITION. The instructions: one constructor per mnemonic of spec/opcode_table.json; where the
table gives a mnemonic several rows, the constructor takes the operand form as an argument, and each
row is that constructor applied to one form. The operand forms are those of 30_encoding.md R84. -/

namespace Sys2Proof

/-- A memory operand (R87 to R93): the modes that have an effective address. -/
inductive MemMode where
  /-- DIR: `$00:dd` -/
  | dir (dd : Byte)
  /-- EXT: `hh:ll` -/
  | ext (addr : Addr)
  /-- IX2: `HX + ee:ff` -/
  | ix2 (off : Addr)
  /-- IX1: `HX + zext ff` -/
  | ix1 (ff : Byte)
  /-- IX: `HX` -/
  | ix
  /-- SP1: `SP + zext ff` -/
  | sp1 (ff : Byte)
  /-- SP2: `SP + ee:ff` -/
  | sp2 (off : Addr)
deriving DecidableEq, Repr

/-- The operand of the accumulator/memory group (head of 41_arithmetic.md): the eight forms. -/
inductive Src where
  | imm (ii : Byte)
  | mem (m : MemMode)
deriving DecidableEq, Repr

/-- The target of JMP and JSR (R267, R268): five forms. -/
inductive JumpMode where
  | dir (dd : Byte)
  | ext (addr : Addr)
  | ix2 (off : Addr)
  | ix1 (ff : Byte)
  | ix
deriving DecidableEq, Repr

/-- The memory forms of the read-modify-write group and of DBNZ. -/
inductive RmwMode where
  | dir (dd : Byte)
  | ix1 (ff : Byte)
  | ix
  | sp1 (ff : Byte)
deriving DecidableEq, Repr

/-- The operand of LDHX and CPHX (R122, R172). -/
inductive Src16 where
  | imm (jjkk : Addr)
  | dir (dd : Byte)
deriving DecidableEq, Repr

/-- The memory forms of CBEQ (R98, R265). -/
inductive CbeqMode where
  | dir (dd : Byte)
  | ixPlus
  | ix1Plus (ff : Byte)
  | sp1 (ff : Byte)
deriving DecidableEq, Repr

/-- The forms of MOV (R97, R138), operand bytes in instruction order. -/
inductive MovMode where
  | dd (src dst : Byte)
  | dixPlus (src : Byte)
  | imd (ii dst : Byte)
  | ixPlusD (dst : Byte)
deriving DecidableEq, Repr

/-- The instruction set (opcode_table.json). `rr` is always the signed displacement byte. -/
inductive Instr where
  -- data movement (40_data_movement.md)
  | lda (m : Src)
  | ldx (m : Src)
  | ldhx (m : Src16)
  | sta (m : MemMode)
  | stx (m : MemMode)
  | sthx (dd : Byte)
  | psha
  | pshh
  | pshx
  | pula
  | pulh
  | pulx
  | tap
  | tpa
  | tax
  | txa
  | txs
  | tsx
  | mov (m : MovMode)
  -- arithmetic (41_arithmetic.md)
  | add (m : Src)
  | adc (m : Src)
  | sub (m : Src)
  | sbc (m : Src)
  | mul
  | div
  | inc (m : RmwMode)
  | inca
  | incx
  | dec (m : RmwMode)
  | deca
  | decx
  | com (m : RmwMode)
  | coma
  | comx
  | neg (m : RmwMode)
  | nega
  | negx
  | cmp (m : Src)
  | cpx (m : Src)
  | cphx (m : Src16)
  | clr (m : RmwMode)
  | clra
  | clrx
  | clrh
  | tst (m : RmwMode)
  | tsta
  | tstx
  | ais (ii : Byte)
  | aix (ii : Byte)
  -- logic and bit manipulation (42_logic_bits.md)
  | and (m : Src)
  | ora (m : Src)
  | eor (m : Src)
  | bit (m : Src)
  | bclr (n : BitNum) (dd : Byte)
  | bset (n : BitNum) (dd : Byte)
  | clc
  | sec
  | cli
  | sei
  -- shifts and rotates (43_shifts_rotates.md)
  | lsl (m : RmwMode)
  | lsla
  | lslx
  | asl (m : RmwMode)
  | asla
  | aslx
  | asr (m : RmwMode)
  | asra
  | asrx
  | lsr (m : RmwMode)
  | lsra
  | lsrx
  | rol (m : RmwMode)
  | rola
  | rolx
  | ror (m : RmwMode)
  | rora
  | rorx
  -- program control (44_program_control.md)
  | bcc (rr : Byte)
  | bcs (rr : Byte)
  | bhcc (rr : Byte)
  | bhcs (rr : Byte)
  | bhi (rr : Byte)
  | bhs (rr : Byte)
  | blo (rr : Byte)
  | bls (rr : Byte)
  | bpl (rr : Byte)
  | bmi (rr : Byte)
  | beq (rr : Byte)
  | bne (rr : Byte)
  | bge (rr : Byte)
  | bgt (rr : Byte)
  | ble (rr : Byte)
  | blt (rr : Byte)
  | bih (rr : Byte)
  | bil (rr : Byte)
  | bmc (rr : Byte)
  | bms (rr : Byte)
  | bra (rr : Byte)
  | brn (rr : Byte)
  | brclr (n : BitNum) (dd rr : Byte)
  | brset (n : BitNum) (dd rr : Byte)
  | cbeq (m : CbeqMode) (rr : Byte)
  | cbeqa (ii rr : Byte)
  | cbeqx (ii rr : Byte)
  | dbnz (m : RmwMode) (rr : Byte)
  | dbnza (rr : Byte)
  | dbnzx (rr : Byte)
  | jmp (m : JumpMode)
  | jsr (m : JumpMode)
  | bsr (rr : Byte)
  | rts
  | swi
  | rti
  -- BCD and special (45_bcd_special.md)
  | daa
  | nsa
  | rsp
  | nop
  | stop
  | wait
deriving DecidableEq, Repr

end Sys2Proof
end

