-- ==== Sys2Proof/Machine/Operands.lean ====
section
/-! DEFINITION. The operand forms (30_encoding.md R85 to R99) and the shapes that instructions share:
an operand read, an accumulator operation, a load, a store, a read-modify-write. All sums of addresses
are 16 bits wide and wrap (20_memory.md R58). -/

namespace Sys2Proof.Machine

/-- `EA(mode)` (R87 to R93). -/
def ea (m : MemMode) (s : State) : Addr :=
  match m with
  | .dir dd => directAddr dd
  | .ext addr => addr
  | .ix2 off => s.hx + off
  | .ix1 ff => s.hx + zext16 ff
  | .ix => s.hx
  | .sp1 ff => s.sp + zext16 ff
  | .sp2 off => s.sp + off

/-- A jump target's form as a memory mode (R267). -/
def jumpMem : JumpMode → MemMode
  | .dir dd => .dir dd
  | .ext addr => .ext addr
  | .ix2 off => .ix2 off
  | .ix1 ff => .ix1 ff
  | .ix => .ix

/-- A read-modify-write form as a memory mode. -/
def rmwMem : RmwMode → MemMode
  | .dir dd => .dir dd
  | .ix1 ff => .ix1 ff
  | .ix => .ix
  | .sp1 ff => .sp1 ff

/-- A memory form of CBEQ as a memory mode: IX+ and IX1+ address as IX and IX1, by H:X before the
increment (R99). -/
def cbeqMem : CbeqMode → MemMode
  | .dir dd => .dir dd
  | .ixPlus => .ix
  | .ix1Plus ff => .ix1 ff
  | .sp1 ff => .sp1 ff

/-- `HX <- HX + 1`, the 16-bit post-increment (R99). -/
def State.bumpHx (s : State) : State := s.setHx (s.hx + 1)

/-- The post-increment of a CBEQ form, made in the X+ modes only (R99, R265). -/
def cbeqIncrement (m : CbeqMode) (s : State) : State :=
  match m with
  | .dir _ => s
  | .ixPlus => s.bumpHx
  | .ix1Plus _ => s.bumpHx
  | .sp1 _ => s

/-- `Opr8(mode)` (R11, R85). -/
def operand8 (m : Src) (s : State) : Access (Byte × State) :=
  match m with
  | .imm ii => .ok (ii, s)
  | .mem m => readByte (ea m s) s

/-- The 16-bit operand of LDHX and CPHX (R86, R122, R172). -/
def operand16 (m : Src16) (s : State) : Access (Addr × State) :=
  match m with
  | .imm v => .ok (v, s)
  | .dir dd => readWord (directAddr dd) s

/-! ## Shared shapes -/

/-- `A <- op(A, operand)` with the operation's flags. -/
def accumulate (op : Byte → Byte → Ccr → Byte × Ccr) (m : Src) (s : State) : Result := answer do
  let (v, s) ← operand8 m s
  let (r, f) := op s.a v s.ccr
  return (s.setA r).setCcr f

/-- The flags of `op(reg, operand)`; the result is discarded. -/
def compare (op : Byte → Byte → Ccr → Byte × Ccr) (reg : State → Byte) (m : Src) (s : State) : Result :=
  answer do
    let (v, s) ← operand8 m s
    return s.setCcr (op (reg s) v s.ccr).2

/-- The operand loaded into a register; `V <- 0`, N and Z from the byte. -/
def load (set : State → Byte → State) (m : Src) (s : State) : Result := answer do
  let (v, s) ← operand8 m s
  return (set s v).setCcr (s.ccr.moved8 v)

/-- A byte stored at the effective address; `V <- 0`, N and Z from the byte. -/
def store (v : Byte) (m : MemMode) (s : State) : Result := answer do
  let s ← writeByte (ea m s) v s
  return s.setCcr (s.ccr.moved8 v)

/-- A memory byte read once, changed by `op` and written once to the same address (R56). -/
def modify (op : Byte → Ccr → Byte × Ccr) (m : RmwMode) (s : State) : Result := answer do
  let addr := ea (rmwMem m) s
  let (v, s) ← readByte addr s
  let (r, f) := op v s.ccr
  let s ← writeByte addr r s
  return s.setCcr f

/-- A changed by `op`. -/
def modifyA (op : Byte → Ccr → Byte × Ccr) (s : State) : Result :=
  .next ((s.setA (op s.a s.ccr).1).setCcr (op s.a s.ccr).2)

/-- X changed by `op`; H is not involved. -/
def modifyX (op : Byte → Ccr → Byte × Ccr) (s : State) : Result :=
  .next ((s.setX (op s.x s.ccr).1).setCcr (op s.x s.ccr).2)

/-- A byte of the direct page changed by `op` and written back whole, no flag written (R56, R204, R205). -/
def modifyBit (op : Byte → Byte) (dd : Byte) (s : State) : Result := answer do
  let (v, s) ← readByte (directAddr dd) s
  writeByte (directAddr dd) (op v) s

/-- The mask `1 << n` (R96). -/
def bitMask (n : BitNum) : Byte := 1#8 <<< n.toNat

/-- A conditional branch (R240): no flag is written. -/
def branch (cond : Bool) (rr : Byte) (s : State) : Result := .next (s.branchIf cond rr)

/-- The bit tested by BRSET and BRCLR goes to C; the branch is taken when it has the wanted value
(R263, R264). -/
def branchBit (want : Bool) (n : BitNum) (dd rr : Byte) (s : State) : Result := answer do
  let (v, s) ← readByte (directAddr dd) s
  let b := v.getLsbD n.toNat
  return (s.setCcr { s.ccr with c := b }).branchIf (b == want) rr

end Sys2Proof.Machine
end

