-- ==== Sys2Proof/Machine/Arithmetic.lean ====
section
/-! DEFINITION. The arithmetic instructions (41_arithmetic.md R160 to R176). -/

namespace Sys2Proof.Machine

/-- ADD (R160). -/
def execAdd (m : Src) (s : State) : Result := accumulate addOp m s

/-- ADC (R161). -/
def execAdc (m : Src) (s : State) : Result := accumulate adcOp m s

/-- SUB (R162). -/
def execSub (m : Src) (s : State) : Result := accumulate subOp m s

/-- SBC (R163). -/
def execSbc (m : Src) (s : State) : Result := accumulate sbcOp m s

/-- MUL (R164): HC and C are cleared; V, N, Z stay. -/
def execMul (s : State) : Result :=
  let p : Addr := BitVec.ofNat 16 (s.x.toNat * s.a.toNat)
  .next (((s.setX (hiByte p)).setA (loByte p)).setCcr { s.ccr with hc := false, c := false })

/-- The quotient does not fit in a byte, or the divisor is zero (R165). -/
def State.divOverflows (s : State) : Bool := s.x == 0 || decide (s.x.toNat ≤ s.h.toNat)

/-- DIV (R165): H:A divided by X, quotient to A, remainder to H. On overflow and on a zero divisor
C is set and A, H, Z are free values (U1, log 9). -/
def execDiv (s : State) : Result :=
  if s.divOverflows then
    let q := s.freeByte
    let s := s.drawn
    let r := s.freeByte
    let s := s.drawn
    let z := s.freeBit
    let s := s.drawn
    .next (((s.setA q).setH r).setCcr { s.ccr with z := z, c := true })
  else
    let d := s.h.toNat * 256 + s.a.toNat
    let q : Byte := BitVec.ofNat 8 (d / s.x.toNat)
    let r : Byte := BitVec.ofNat 8 (d % s.x.toNat)
    .next (((s.setA q).setH r).setCcr { s.ccr with z := q == 0, c := false })

/-- INC (R166). -/
def execInc (m : RmwMode) (s : State) : Result := modify incOp m s

/-- INCA (R166). -/
def execInca (s : State) : Result := modifyA incOp s

/-- INCX (R166): no carry into H. -/
def execIncx (s : State) : Result := modifyX incOp s

/-- DEC (R167). -/
def execDec (m : RmwMode) (s : State) : Result := modify decOp m s

/-- DECA (R167). -/
def execDeca (s : State) : Result := modifyA decOp s

/-- DECX (R167): no borrow from H. -/
def execDecx (s : State) : Result := modifyX decOp s

/-- COM (R168). -/
def execCom (m : RmwMode) (s : State) : Result := modify comOp m s

/-- COMA (R168). -/
def execComa (s : State) : Result := modifyA comOp s

/-- COMX (R168). -/
def execComx (s : State) : Result := modifyX comOp s

/-- NEG (R169). -/
def execNeg (m : RmwMode) (s : State) : Result := modify negOp m s

/-- NEGA (R169). -/
def execNega (s : State) : Result := modifyA negOp s

/-- NEGX (R169). -/
def execNegx (s : State) : Result := modifyX negOp s

/-- CMP (R170): A is unchanged. -/
def execCmp (m : Src) (s : State) : Result := compare subOp State.a m s

/-- CPX (R171): X and H are unchanged. -/
def execCpx (m : Src) (s : State) : Result := compare subOp State.x m s

/-- CPHX (R172): all four flags over 16 bits; H:X is unchanged. -/
def execCphx (m : Src16) (s : State) : Result := answer do
  let (v, s) ← operand16 m s
  return s.setCcr (sub16 s.hx v s.ccr).2

/-- The read that a CLR of memory makes before its write, where the platform's CLR reads (R173, U6). -/
def clrRead (addr : Addr) (s : State) : Access State :=
  if s.platform.clrReadsFirst then do
    let (_, s) ← readByte addr s
    return s
  else .ok s

/-- CLR of memory (R173). -/
def execClr (m : RmwMode) (s : State) : Result := answer do
  let addr := ea (rmwMem m) s
  let s ← clrRead addr s
  let s ← writeByte addr 0x00 s
  return s.setCcr s.ccr.cleared

/-- CLRA (R173). -/
def execClra (s : State) : Result := .next ((s.setA 0x00).setCcr s.ccr.cleared)

/-- CLRX (R173). -/
def execClrx (s : State) : Result := .next ((s.setX 0x00).setCcr s.ccr.cleared)

/-- CLRH (R173). -/
def execClrh (s : State) : Result := .next ((s.setH 0x00).setCcr s.ccr.cleared)

/-- TST of memory (R174): one read, no write. -/
def execTst (m : RmwMode) (s : State) : Result := answer do
  let (v, s) ← readByte (ea (rmwMem m) s) s
  return s.setCcr (s.ccr.moved8 v)

/-- TSTA (R174). -/
def execTsta (s : State) : Result := .next (s.setCcr (s.ccr.moved8 s.a))

/-- TSTX (R174). -/
def execTstx (s : State) : Result := .next (s.setCcr (s.ccr.moved8 s.x))

/-- AIS (R175): no flag is written. -/
def execAis (ii : Byte) (s : State) : Result := .next (s.setSp (s.sp + sext16 ii))

/-- AIX (R176): no flag is written. -/
def execAix (ii : Byte) (s : State) : Result := .next (s.setHx (s.hx + sext16 ii))

end Sys2Proof.Machine
end

