-- ==== Sys2Proof/Machine/Control.lean ====
section
/-! DEFINITION. Program control (44_program_control.md R240 to R272). -/

namespace Sys2Proof.Machine

/-! ## Conditional branches: the table of R240 -/

/-- BCC (R241). -/
def execBcc (rr : Byte) (s : State) : Result := branch (!s.ccr.c) rr s

/-- BCS (R242). -/
def execBcs (rr : Byte) (s : State) : Result := branch s.ccr.c rr s

/-- BHCC (R243). -/
def execBhcc (rr : Byte) (s : State) : Result := branch (!s.ccr.hc) rr s

/-- BHCS (R244). -/
def execBhcs (rr : Byte) (s : State) : Result := branch s.ccr.hc rr s

/-- BHI (R245). -/
def execBhi (rr : Byte) (s : State) : Result := branch s.ccr.higher rr s

/-- BHS (R246): the second spelling of BCC. -/
def execBhs (rr : Byte) (s : State) : Result := branch (!s.ccr.c) rr s

/-- BLO (R247): the second spelling of BCS. -/
def execBlo (rr : Byte) (s : State) : Result := branch s.ccr.c rr s

/-- BLS (R248). -/
def execBls (rr : Byte) (s : State) : Result := branch (!s.ccr.higher) rr s

/-- BPL (R249). -/
def execBpl (rr : Byte) (s : State) : Result := branch (!s.ccr.n) rr s

/-- BMI (R250). -/
def execBmi (rr : Byte) (s : State) : Result := branch s.ccr.n rr s

/-- BEQ (R251). -/
def execBeq (rr : Byte) (s : State) : Result := branch s.ccr.z rr s

/-- BNE (R252). -/
def execBne (rr : Byte) (s : State) : Result := branch (!s.ccr.z) rr s

/-- BGE (R253). -/
def execBge (rr : Byte) (s : State) : Result := branch s.ccr.greaterEq rr s

/-- BGT (R254). -/
def execBgt (rr : Byte) (s : State) : Result := branch s.ccr.greater rr s

/-- BLE (R255). -/
def execBle (rr : Byte) (s : State) : Result := branch (!s.ccr.greater) rr s

/-- BLT (R256). -/
def execBlt (rr : Byte) (s : State) : Result := branch (!s.ccr.greaterEq) rr s

/-- BIH (R257): the level of the IRQ pin sampled for this step. -/
def execBih (rr : Byte) (s : State) : Result := branch s.irqPin rr s

/-- BIL (R258). -/
def execBil (rr : Byte) (s : State) : Result := branch (!s.irqPin) rr s

/-- BMC (R259). -/
def execBmc (rr : Byte) (s : State) : Result := branch (!s.ccr.i) rr s

/-- BMS (R260). -/
def execBms (rr : Byte) (s : State) : Result := branch s.ccr.i rr s

/-! ## Unconditional branches -/

/-- BRA (R261). -/
def execBra (rr : Byte) (s : State) : Result := branch true rr s

/-- BRN (R262): the displacement byte is ignored. -/
def execBrn (rr : Byte) (s : State) : Result := branch false rr s

/-! ## Bit test and branch -/

/-- BRCLR (R263). -/
def execBrclr (n : BitNum) (dd rr : Byte) (s : State) : Result := branchBit false n dd rr s

/-- BRSET (R264). -/
def execBrset (n : BitNum) (dd rr : Byte) (s : State) : Result := branchBit true n dd rr s

/-! ## Compare and branch, decrement and branch: no flag is written -/

/-- CBEQ, the memory forms (R265): the post-increment of the X+ forms happens on both outcomes. -/
def execCbeq (m : CbeqMode) (rr : Byte) (s : State) : Result := answer do
  let (v, s) ← readByte (ea (cbeqMem m) s) s
  return (cbeqIncrement m s).branchIf (s.a == v) rr

/-- CBEQA (R265). -/
def execCbeqa (ii rr : Byte) (s : State) : Result := branch (s.a == ii) rr s

/-- CBEQX (R265). -/
def execCbeqx (ii rr : Byte) (s : State) : Result := branch (s.x == ii) rr s

/-- DBNZ, the memory forms (R266). -/
def execDbnz (m : RmwMode) (rr : Byte) (s : State) : Result := answer do
  let addr := ea (rmwMem m) s
  let (v, s) ← readByte addr s
  let s ← writeByte addr (v - 1) s
  return s.branchIf (v - 1 != 0) rr

/-- DBNZA (R266). -/
def execDbnza (rr : Byte) (s : State) : Result := branch (s.a - 1 != 0) rr (s.setA (s.a - 1))

/-- DBNZX (R266): X only, never H. -/
def execDbnzx (rr : Byte) (s : State) : Result := branch (s.x - 1 != 0) rr (s.setX (s.x - 1))

/-! ## Jumps and subroutines -/

/-- JMP (R267): PC takes the effective address itself; no memory is read at it. -/
def execJmp (m : JumpMode) (s : State) : Result := .next (s.setPc (ea (jumpMem m) s))

/-- JSR (R268): the target is formed, PCnext is pushed, PCL first, and PC takes the target. -/
def execJsr (m : JumpMode) (s : State) : Result := answer do
  let target := ea (jumpMem m) s
  let s ← pushAddr s.pc s
  return s.setPc target

/-- BSR (R269). -/
def execBsr (rr : Byte) (s : State) : Result := answer do
  let target := s.rel rr
  let s ← pushAddr s.pc s
  return s.setPc target

/-- RTS (R270). -/
def execRts (s : State) : Result := answer do
  let (pc, s) ← pullAddr s
  return s.setPc pc

/-! ## Interrupt instructions -/

/-- SWI (R271): `TrapEntry($FFFC, PCnext)`, whatever I is. -/
def execSwi (s : State) : Result := answer (trapEntry Config.vecSwi s.pc s)

/-- RTI (R272). -/
def execRti (s : State) : Result := answer (returnFromTrap s)

end Sys2Proof.Machine
end

