-- ==== Sys2Proof/Machine/DataMovement.lean ====
section
/-! DEFINITION. The data movement instructions (40_data_movement.md R120 to R138). PC holds PCnext when
a meaning starts (log 32), so an instruction that is no control transfer leaves it alone. -/

namespace Sys2Proof.Machine

/-- LDA (R120). -/
def execLda (m : Src) (s : State) : Result := load State.setA m s

/-- LDX (R121): H is not changed. -/
def execLdx (m : Src) (s : State) : Result := load State.setX m s

/-- LDHX (R122): N and Z over 16 bits. -/
def execLdhx (m : Src16) (s : State) : Result := answer do
  let (v, s) ← operand16 m s
  return (s.setHx v).setCcr (s.ccr.moved16 v)

/-- STA (R123). -/
def execSta (m : MemMode) (s : State) : Result := store s.a m s

/-- STX (R124). -/
def execStx (m : MemMode) (s : State) : Result := store s.x m s

/-- STHX (R125): H at `$00:dd`, then X at `$00:dd + 1`. -/
def execSthx (dd : Byte) (s : State) : Result := answer do
  let s ← writeWord (directAddr dd) s.hx s
  return s.setCcr (s.ccr.moved16 s.hx)

/-- PSHA (R126). -/
def execPsha (s : State) : Result := answer (push8 s.a s)

/-- PSHH (R127). -/
def execPshh (s : State) : Result := answer (push8 s.h s)

/-- PSHX (R128). -/
def execPshx (s : State) : Result := answer (push8 s.x s)

/-- PULA (R129): no flag is written. -/
def execPula (s : State) : Result := answer do
  let (v, s) ← pull8 s
  return s.setA v

/-- PULH (R130). -/
def execPulh (s : State) : Result := answer do
  let (v, s) ← pull8 s
  return s.setH v

/-- PULX (R131). -/
def execPulx (s : State) : Result := answer do
  let (v, s) ← pull8 s
  return s.setX v

/-- TAP (R132). -/
def execTap (s : State) : Result := .next (s.setCcr (.ofByte s.a))

/-- TPA (R133). -/
def execTpa (s : State) : Result := .next (s.setA s.ccr.toByte)

/-- TAX (R134). -/
def execTax (s : State) : Result := .next (s.setX s.a)

/-- TXA (R135). -/
def execTxa (s : State) : Result := .next (s.setA s.x)

/-- TXS (R136). -/
def execTxs (s : State) : Result := .next (s.setSp (s.hx - 1))

/-- TSX (R137). -/
def execTsx (s : State) : Result := .next (s.setHx (s.sp + 1))

/-- The end of every MOV: `V <- 0; NZ8(m)` (R138). -/
def movFlags (v : Byte) (s : State) : State := s.setCcr (s.ccr.moved8 v)

/-- MOV (R138): the read comes before the write, the post-increment after both. -/
def execMov (m : MovMode) (s : State) : Result :=
  match m with
  | .dd src dst => answer do
    let (v, s) ← readByte (directAddr src) s
    let s ← writeByte (directAddr dst) v s
    return movFlags v s
  | .dixPlus src => answer do
    let (v, s) ← readByte (directAddr src) s
    let s ← writeByte s.hx v s
    return movFlags v s.bumpHx
  | .imd ii dst => answer do
    let s ← writeByte (directAddr dst) ii s
    return movFlags ii s
  | .ixPlusD dst => answer do
    let (v, s) ← readByte s.hx s
    let s ← writeByte (directAddr dst) v s
    return movFlags v s.bumpHx

end Sys2Proof.Machine
end

