-- ==== Sys2Proof/Machine/Logic.lean ====
section
/-! DEFINITION. The logical operators and bit manipulation (42_logic_bits.md R200 to R209). -/

namespace Sys2Proof.Machine

/-- AND (R200). -/
def execAnd (m : Src) (s : State) : Result := accumulate andOp m s

/-- ORA (R201). -/
def execOra (m : Src) (s : State) : Result := accumulate oraOp m s

/-- EOR (R202). -/
def execEor (m : Src) (s : State) : Result := accumulate eorOp m s

/-- BIT (R203): A is unchanged. -/
def execBit (m : Src) (s : State) : Result := compare andOp State.a m s

/-- BCLR (R204). -/
def execBclr (n : BitNum) (dd : Byte) (s : State) : Result := modifyBit (· &&& ~~~(bitMask n)) dd s

/-- BSET (R205). -/
def execBset (n : BitNum) (dd : Byte) (s : State) : Result := modifyBit (· ||| bitMask n) dd s

/-- CLC (R206). -/
def execClc (s : State) : Result := .next (s.setCcr { s.ccr with c := false })

/-- SEC (R207). -/
def execSec (s : State) : Result := .next (s.setCcr { s.ccr with c := true })

/-- CLI (R208): I is cleared, and no maskable interrupt is recognised at the next boundary. -/
def execCli (s : State) : Result := .next ((s.setI false).setInhibitNext true)

/-- SEI (R209). -/
def execSei (s : State) : Result := .next (s.setI true)

end Sys2Proof.Machine
end

