-- ==== Sys2Proof/Machine/Shifts.lean ====
section
/-! DEFINITION. The shifts and rotates by one place (43_shifts_rotates.md R220 to R225). -/

namespace Sys2Proof.Machine

/-- LSL (R222). -/
def execLsl (m : RmwMode) (s : State) : Result := modify lslOp m s

/-- LSLA (R222). -/
def execLsla (s : State) : Result := modifyA lslOp s

/-- LSLX (R222). -/
def execLslx (s : State) : Result := modifyX lslOp s

/-- ASL (R220): the second spelling of LSL. -/
def execAsl (m : RmwMode) (s : State) : Result := modify lslOp m s

/-- ASLA (R220). -/
def execAsla (s : State) : Result := modifyA lslOp s

/-- ASLX (R220). -/
def execAslx (s : State) : Result := modifyX lslOp s

/-- ASR (R221). -/
def execAsr (m : RmwMode) (s : State) : Result := modify asrOp m s

/-- ASRA (R221). -/
def execAsra (s : State) : Result := modifyA asrOp s

/-- ASRX (R221). -/
def execAsrx (s : State) : Result := modifyX asrOp s

/-- LSR (R223). -/
def execLsr (m : RmwMode) (s : State) : Result := modify lsrOp m s

/-- LSRA (R223). -/
def execLsra (s : State) : Result := modifyA lsrOp s

/-- LSRX (R223). -/
def execLsrx (s : State) : Result := modifyX lsrOp s

/-- ROL (R224). -/
def execRol (m : RmwMode) (s : State) : Result := modify rolOp m s

/-- ROLA (R224). -/
def execRola (s : State) : Result := modifyA rolOp s

/-- ROLX (R224). -/
def execRolx (s : State) : Result := modifyX rolOp s

/-- ROR (R225). -/
def execRor (m : RmwMode) (s : State) : Result := modify rorOp m s

/-- RORA (R225). -/
def execRora (s : State) : Result := modifyA rorOp s

/-- RORX (R225). -/
def execRorx (s : State) : Result := modifyX rorOp s

end Sys2Proof.Machine
end

