-- ==== Sys2Proof/Machine/Special.lean ====
section
/-! DEFINITION. BCD and special instructions (45_bcd_special.md R290 to R295). -/

namespace Sys2Proof.Machine

/-- DAA (R290): the correction row of (C, A[7:4], HC, A[3:0]). V is a free value (U2); where no row
matches, A, C, N, Z and V are (U3, log 10). HC and I are not written. -/
def execDaa (s : State) : Result :=
  match daaRow s.ccr.c s.ccr.hc (s.a.toNat / 16) (s.a.toNat % 16) with
  | some (correction, carry) =>
    let r := s.a + correction
    let v := s.freeBit
    let s := s.drawn
    .next ((s.setA r).setCcr { s.ccr.nz8 r with v := v, c := carry })
  | none =>
    let r := s.freeByte
    let s := s.drawn
    let c := s.freeBit
    let s := s.drawn
    let n := s.freeBit
    let s := s.drawn
    let z := s.freeBit
    let s := s.drawn
    let v := s.freeBit
    let s := s.drawn
    .next ((s.setA r).setCcr { s.ccr with v := v, n := n, z := z, c := c })

/-- NSA (R291): `A[3:0] : A[7:4]`. -/
def execNsa (s : State) : Result := .next (s.setA (s.a.extractLsb' 0 4 ++ s.a.extractLsb' 4 4))

/-- RSP (R292): SPL takes $FF, SPH stays. -/
def execRsp (s : State) : Result := .next (s.setSp (word (hiByte s.sp) 0xFF))

/-- NOP (R293). -/
def execNop (s : State) : Result := .next s

/-- STOP (R294). Where the platform disables it, it is an illegal opcode: the fault of R301, in the
state as before the fetch, with PC at the opcode byte (log 36). -/
def execStop (s : State) : Result :=
  if s.platform.stopEnabled then .next ((s.setI false).setMode .stopped)
  else .fault (.illegalOpcode (s.pc - 1) (s.setPc (s.pc - 1)))

/-- WAIT (R295). -/
def execWait (s : State) : Result := .next ((s.setI false).setMode .waiting)

end Sys2Proof.Machine
end

