-- ==== Sys2Proof/Machine/Dispatch.lean ====
section
/-! DEFINITION. One arm per constructor of Instr: the call of its meaning. -/

namespace Sys2Proof.Machine

/-- The effect of an instruction whose bytes have been fetched: PC holds PCnext (log 32). -/
def exec (i : Instr) (s : State) : Host.Outcome State Fault Refusal :=
  match i with
  -- data movement (40_data_movement.md)
  | .lda m => Sys2Proof.Machine.execLda m s
  | .ldx m => Sys2Proof.Machine.execLdx m s
  | .ldhx m => Sys2Proof.Machine.execLdhx m s
  | .sta m => Sys2Proof.Machine.execSta m s
  | .stx m => Sys2Proof.Machine.execStx m s
  | .sthx dd => Sys2Proof.Machine.execSthx dd s
  | .psha => Sys2Proof.Machine.execPsha s
  | .pshh => Sys2Proof.Machine.execPshh s
  | .pshx => Sys2Proof.Machine.execPshx s
  | .pula => Sys2Proof.Machine.execPula s
  | .pulh => Sys2Proof.Machine.execPulh s
  | .pulx => Sys2Proof.Machine.execPulx s
  | .tap => Sys2Proof.Machine.execTap s
  | .tpa => Sys2Proof.Machine.execTpa s
  | .tax => Sys2Proof.Machine.execTax s
  | .txa => Sys2Proof.Machine.execTxa s
  | .txs => Sys2Proof.Machine.execTxs s
  | .tsx => Sys2Proof.Machine.execTsx s
  | .mov m => Sys2Proof.Machine.execMov m s
  -- arithmetic (41_arithmetic.md)
  | .add m => Sys2Proof.Machine.execAdd m s
  | .adc m => Sys2Proof.Machine.execAdc m s
  | .sub m => Sys2Proof.Machine.execSub m s
  | .sbc m => Sys2Proof.Machine.execSbc m s
  | .mul => Sys2Proof.Machine.execMul s
  | .div => Sys2Proof.Machine.execDiv s
  | .inc m => Sys2Proof.Machine.execInc m s
  | .inca => Sys2Proof.Machine.execInca s
  | .incx => Sys2Proof.Machine.execIncx s
  | .dec m => Sys2Proof.Machine.execDec m s
  | .deca => Sys2Proof.Machine.execDeca s
  | .decx => Sys2Proof.Machine.execDecx s
  | .com m => Sys2Proof.Machine.execCom m s
  | .coma => Sys2Proof.Machine.execComa s
  | .comx => Sys2Proof.Machine.execComx s
  | .neg m => Sys2Proof.Machine.execNeg m s
  | .nega => Sys2Proof.Machine.execNega s
  | .negx => Sys2Proof.Machine.execNegx s
  | .cmp m => Sys2Proof.Machine.execCmp m s
  | .cpx m => Sys2Proof.Machine.execCpx m s
  | .cphx m => Sys2Proof.Machine.execCphx m s
  | .clr m => Sys2Proof.Machine.execClr m s
  | .clra => Sys2Proof.Machine.execClra s
  | .clrx => Sys2Proof.Machine.execClrx s
  | .clrh => Sys2Proof.Machine.execClrh s
  | .tst m => Sys2Proof.Machine.execTst m s
  | .tsta => Sys2Proof.Machine.execTsta s
  | .tstx => Sys2Proof.Machine.execTstx s
  | .ais ii => Sys2Proof.Machine.execAis ii s
  | .aix ii => Sys2Proof.Machine.execAix ii s
  -- logic and bit manipulation (42_logic_bits.md)
  | .and m => Sys2Proof.Machine.execAnd m s
  | .ora m => Sys2Proof.Machine.execOra m s
  | .eor m => Sys2Proof.Machine.execEor m s
  | .bit m => Sys2Proof.Machine.execBit m s
  | .bclr n dd => Sys2Proof.Machine.execBclr n dd s
  | .bset n dd => Sys2Proof.Machine.execBset n dd s
  | .clc => Sys2Proof.Machine.execClc s
  | .sec => Sys2Proof.Machine.execSec s
  | .cli => Sys2Proof.Machine.execCli s
  | .sei => Sys2Proof.Machine.execSei s
  -- shifts and rotates (43_shifts_rotates.md)
  | .lsl m => Sys2Proof.Machine.execLsl m s
  | .lsla => Sys2Proof.Machine.execLsla s
  | .lslx => Sys2Proof.Machine.execLslx s
  | .asl m => Sys2Proof.Machine.execAsl m s
  | .asla => Sys2Proof.Machine.execAsla s
  | .aslx => Sys2Proof.Machine.execAslx s
  | .asr m => Sys2Proof.Machine.execAsr m s
  | .asra => Sys2Proof.Machine.execAsra s
  | .asrx => Sys2Proof.Machine.execAsrx s
  | .lsr m => Sys2Proof.Machine.execLsr m s
  | .lsra => Sys2Proof.Machine.execLsra s
  | .lsrx => Sys2Proof.Machine.execLsrx s
  | .rol m => Sys2Proof.Machine.execRol m s
  | .rola => Sys2Proof.Machine.execRola s
  | .rolx => Sys2Proof.Machine.execRolx s
  | .ror m => Sys2Proof.Machine.execRor m s
  | .rora => Sys2Proof.Machine.execRora s
  | .rorx => Sys2Proof.Machine.execRorx s
  -- program control (44_program_control.md)
  | .bcc rr => Sys2Proof.Machine.execBcc rr s
  | .bcs rr => Sys2Proof.Machine.execBcs rr s
  | .bhcc rr => Sys2Proof.Machine.execBhcc rr s
  | .bhcs rr => Sys2Proof.Machine.execBhcs rr s
  | .bhi rr => Sys2Proof.Machine.execBhi rr s
  | .bhs rr => Sys2Proof.Machine.execBhs rr s
  | .blo rr => Sys2Proof.Machine.execBlo rr s
  | .bls rr => Sys2Proof.Machine.execBls rr s
  | .bpl rr => Sys2Proof.Machine.execBpl rr s
  | .bmi rr => Sys2Proof.Machine.execBmi rr s
  | .beq rr => Sys2Proof.Machine.execBeq rr s
  | .bne rr => Sys2Proof.Machine.execBne rr s
  | .bge rr => Sys2Proof.Machine.execBge rr s
  | .bgt rr => Sys2Proof.Machine.execBgt rr s
  | .ble rr => Sys2Proof.Machine.execBle rr s
  | .blt rr => Sys2Proof.Machine.execBlt rr s
  | .bih rr => Sys2Proof.Machine.execBih rr s
  | .bil rr => Sys2Proof.Machine.execBil rr s
  | .bmc rr => Sys2Proof.Machine.execBmc rr s
  | .bms rr => Sys2Proof.Machine.execBms rr s
  | .bra rr => Sys2Proof.Machine.execBra rr s
  | .brn rr => Sys2Proof.Machine.execBrn rr s
  | .brclr n dd rr => Sys2Proof.Machine.execBrclr n dd rr s
  | .brset n dd rr => Sys2Proof.Machine.execBrset n dd rr s
  | .cbeq m rr => Sys2Proof.Machine.execCbeq m rr s
  | .cbeqa ii rr => Sys2Proof.Machine.execCbeqa ii rr s
  | .cbeqx ii rr => Sys2Proof.Machine.execCbeqx ii rr s
  | .dbnz m rr => Sys2Proof.Machine.execDbnz m rr s
  | .dbnza rr => Sys2Proof.Machine.execDbnza rr s
  | .dbnzx rr => Sys2Proof.Machine.execDbnzx rr s
  | .jmp m => Sys2Proof.Machine.execJmp m s
  | .jsr m => Sys2Proof.Machine.execJsr m s
  | .bsr rr => Sys2Proof.Machine.execBsr rr s
  | .rts => Sys2Proof.Machine.execRts s
  | .swi => Sys2Proof.Machine.execSwi s
  | .rti => Sys2Proof.Machine.execRti s
  -- BCD and special (45_bcd_special.md)
  | .daa => Sys2Proof.Machine.execDaa s
  | .nsa => Sys2Proof.Machine.execNsa s
  | .rsp => Sys2Proof.Machine.execRsp s
  | .nop => Sys2Proof.Machine.execNop s
  | .stop => Sys2Proof.Machine.execStop s
  | .wait => Sys2Proof.Machine.execWait s

end Sys2Proof.Machine
end

