-- ==== Sys2Proof/WellFormed.lean ====
section
/-! DEFINITION. Which terms of Instr are instructions as the decoder names them. The operand types
already admit exactly the forms of the opcode table and every operand value is legal (30_encoding.md
R101), so one check is left: three mnemonics are second spellings of others (30_encoding.md R104),
and a disassembler picks one name for each opcode: LSL, BCC, BCS. -/

namespace Sys2Proof

/-- The name the opcode map of R95 uses for the instruction: ASL is LSL, BHS is BCC, BLO is BCS (R104). -/
def Instr.canonical : Instr → Instr
  | .asl m => .lsl m
  | .asla => .lsla
  | .aslx => .lslx
  | .bhs rr => .bcc rr
  | .blo rr => .bcs rr
  | i => i

/-- The term is spelled as the decoder spells it (R104). -/
abbrev Instr.WellFormed (i : Instr) : Prop := i.canonical = i

end Sys2Proof
end

