-- ==== Sys2Proof/Decode.lean ====
section
/-! DEFINITION. The decoder and, after it, the encoder (30_encoding.md). The opcode byte (or the byte
after the prefix $9E) selects a shape: how many operand bytes follow and what they build. The
structure is that of R83: high nibble the column, low nibble the operation. -/

namespace Sys2Proof

open Machine (word hiByte loByte)

/-- What an opcode selects: the number of operand bytes (R82, R84) and the instruction they build. -/
inductive Shape where
  | zero (i : Instr)
  | one (build : Byte → Instr)
  | two (build : Byte → Byte → Instr)

/-- Why bytes are no instruction. -/
inductive DecodeError where
  /-- the first byte is one of the six illegal opcodes (R100) -/
  | illegalOpcode (b0 : Byte)
  /-- the byte after $9E is none of the 41 page-2 opcodes (R100) -/
  | illegalPage2 (b1 : Byte)
  /-- the bytes end inside the instruction -/
  | truncated
deriving DecidableEq, Repr

/-- Bits 7:4 of an opcode byte (R83). -/
def opHigh (b : Byte) : Nat := (b.extractLsb' 4 4).toNat

/-- Bits 3:0 of an opcode byte (R83). -/
def opLow (b : Byte) : Nat := (b.extractLsb' 0 4).toNat

/-- The bit number in opcode bits 3:1 (R96). -/
def opBit (b : Byte) : BitNum := b.extractLsb' 1 3

/-- Opcode bit 0 (R96): false selects BRSET or BSET, true BRCLR or BCLR. -/
def opClear (b : Byte) : Bool := b.getLsbD 0

/-- The accumulator/memory group of columns $A to $F (R83), by low nibble. -/
def accOp : Nat → Option (Src → Instr)
  | 0x0 => some .sub
  | 0x1 => some .cmp
  | 0x2 => some .sbc
  | 0x3 => some .cpx
  | 0x4 => some .and
  | 0x5 => some .bit
  | 0x6 => some .lda
  | 0x8 => some .eor
  | 0x9 => some .adc
  | 0xA => some .ora
  | 0xB => some .add
  | 0xE => some .ldx
  | _ => none

/-- The members of columns $B to $F that have a memory form: the accumulator group and the stores. -/
def memOp (lo : Nat) : Option (MemMode → Instr) :=
  match lo with
  | 0x7 => some .sta
  | 0xF => some .stx
  | _ => (accOp lo).map fun f m => f (.mem m)

/-- JMP and JSR of columns $B to $F (R83). -/
def jumpOp : Nat → Option (JumpMode → Instr)
  | 0xC => some .jmp
  | 0xD => some .jsr
  | _ => none

/-- The read-modify-write group of columns $3, $6, $7 and page-2 $6x (R83). -/
def rmwOp : Nat → Option (RmwMode → Instr)
  | 0x0 => some .neg
  | 0x3 => some .com
  | 0x4 => some .lsr
  | 0x6 => some .ror
  | 0x7 => some .asr
  | 0x8 => some .lsl
  | 0x9 => some .rol
  | 0xA => some .dec
  | 0xC => some .inc
  | 0xD => some .tst
  | 0xF => some .clr
  | _ => none

/-- The branches of column $2 (R95). -/
def branchOp : Nat → Byte → Instr
  | 0x0 => .bra
  | 0x1 => .brn
  | 0x2 => .bhi
  | 0x3 => .bls
  | 0x4 => .bcc
  | 0x5 => .bcs
  | 0x6 => .bne
  | 0x7 => .beq
  | 0x8 => .bhcc
  | 0x9 => .bhcs
  | 0xA => .bpl
  | 0xB => .bmi
  | 0xC => .bmc
  | 0xD => .bms
  | 0xE => .bil
  | _ => .bih

/-- Column $3: read-modify-write on a direct address. -/
def column3 (lo : Nat) : Option Shape :=
  match lo with
  | 0x1 => some (.two fun dd rr => .cbeq (.dir dd) rr)
  | 0x5 => some (.one .sthx)
  | 0xB => some (.two fun dd rr => .dbnz (.dir dd) rr)
  | _ => (rmwOp lo).map fun f => .one fun dd => f (.dir dd)

/-- Column $4: the operations on A, and MUL, LDHX #, MOV DD. -/
def column4 : Nat → Option Shape
  | 0x0 => some (.zero .nega)
  | 0x1 => some (.two .cbeqa)
  | 0x2 => some (.zero .mul)
  | 0x3 => some (.zero .coma)
  | 0x4 => some (.zero .lsra)
  | 0x5 => some (.two fun jj kk => .ldhx (.imm (word jj kk)))
  | 0x6 => some (.zero .rora)
  | 0x7 => some (.zero .asra)
  | 0x8 => some (.zero .lsla)
  | 0x9 => some (.zero .rola)
  | 0xA => some (.zero .deca)
  | 0xB => some (.one .dbnza)
  | 0xC => some (.zero .inca)
  | 0xD => some (.zero .tsta)
  | 0xE => some (.two fun dd dd2 => .mov (.dd dd dd2))
  | 0xF => some (.zero .clra)
  | _ => none

/-- Column $5: the operations on X, and DIV, LDHX dir, MOV DIX+. -/
def column5 : Nat → Option Shape
  | 0x0 => some (.zero .negx)
  | 0x1 => some (.two .cbeqx)
  | 0x2 => some (.zero .div)
  | 0x3 => some (.zero .comx)
  | 0x4 => some (.zero .lsrx)
  | 0x5 => some (.one fun dd => .ldhx (.dir dd))
  | 0x6 => some (.zero .rorx)
  | 0x7 => some (.zero .asrx)
  | 0x8 => some (.zero .lslx)
  | 0x9 => some (.zero .rolx)
  | 0xA => some (.zero .decx)
  | 0xB => some (.one .dbnzx)
  | 0xC => some (.zero .incx)
  | 0xD => some (.zero .tstx)
  | 0xE => some (.one fun dd => .mov (.dixPlus dd))
  | 0xF => some (.zero .clrx)
  | _ => none

/-- Column $6: read-modify-write in IX1, and NSA, CPHX #, MOV IMD. -/
def column6 (lo : Nat) : Option Shape :=
  match lo with
  | 0x1 => some (.two fun ff rr => .cbeq (.ix1Plus ff) rr)
  | 0x2 => some (.zero .nsa)
  | 0x5 => some (.two fun jj kk => .cphx (.imm (word jj kk)))
  | 0xB => some (.two fun ff rr => .dbnz (.ix1 ff) rr)
  | 0xE => some (.two fun ii dd => .mov (.imd ii dd))
  | _ => (rmwOp lo).map fun f => .one fun ff => f (.ix1 ff)

/-- Column $7: read-modify-write in IX, and DAA, CPHX dir, MOV IX+D. -/
def column7 (lo : Nat) : Option Shape :=
  match lo with
  | 0x1 => some (.one fun rr => .cbeq .ixPlus rr)
  | 0x2 => some (.zero .daa)
  | 0x5 => some (.one fun dd => .cphx (.dir dd))
  | 0xB => some (.one fun rr => .dbnz .ix rr)
  | 0xE => some (.one fun dd => .mov (.ixPlusD dd))
  | _ => (rmwOp lo).map fun f => .zero (f .ix)

/-- Column $8: control instructions; $82 and $8D are illegal. -/
def column8 : Nat → Option Shape
  | 0x0 => some (.zero .rti)
  | 0x1 => some (.zero .rts)
  | 0x3 => some (.zero .swi)
  | 0x4 => some (.zero .tap)
  | 0x5 => some (.zero .tpa)
  | 0x6 => some (.zero .pula)
  | 0x7 => some (.zero .psha)
  | 0x8 => some (.zero .pulx)
  | 0x9 => some (.zero .pshx)
  | 0xA => some (.zero .pulh)
  | 0xB => some (.zero .pshh)
  | 0xC => some (.zero .clrh)
  | 0xE => some (.zero .stop)
  | 0xF => some (.zero .wait)
  | _ => none

/-- Column $9: the signed branches and more control; $96 is illegal, $9E is the prefix (R81). -/
def column9 : Nat → Option Shape
  | 0x0 => some (.one .bge)
  | 0x1 => some (.one .blt)
  | 0x2 => some (.one .bgt)
  | 0x3 => some (.one .ble)
  | 0x4 => some (.zero .txs)
  | 0x5 => some (.zero .tsx)
  | 0x7 => some (.zero .tax)
  | 0x8 => some (.zero .clc)
  | 0x9 => some (.zero .sec)
  | 0xA => some (.zero .cli)
  | 0xB => some (.zero .sei)
  | 0xC => some (.zero .rsp)
  | 0xD => some (.zero .nop)
  | 0xF => some (.zero .txa)
  | _ => none

/-- Column $A: immediates, AIS, AIX, BSR; $AC is illegal. -/
def columnA (lo : Nat) : Option Shape :=
  match lo with
  | 0x7 => some (.one .ais)
  | 0xD => some (.one .bsr)
  | 0xF => some (.one .aix)
  | _ => (accOp lo).map fun f => .one fun ii => f (.imm ii)

/-- Columns $B to $F: the memory group and the jumps, in the column's mode. -/
def columnMem (mem : (MemMode → Instr) → Shape) (jump : (JumpMode → Instr) → Shape) (lo : Nat) :
    Option Shape :=
  match jumpOp lo with
  | some f => some (jump f)
  | none => (memOp lo).map mem

/-- The page-1 opcode map (R95), by column; `none` is an illegal opcode (R100). -/
def page1 (b : Byte) : Option Shape :=
  match opHigh b with
  | 0x0 => some (.two fun dd rr =>
      if opClear b then .brclr (opBit b) dd rr else .brset (opBit b) dd rr)
  | 0x1 => some (.one fun dd => if opClear b then .bclr (opBit b) dd else .bset (opBit b) dd)
  | 0x2 => some (.one (branchOp (opLow b)))
  | 0x3 => column3 (opLow b)
  | 0x4 => column4 (opLow b)
  | 0x5 => column5 (opLow b)
  | 0x6 => column6 (opLow b)
  | 0x7 => column7 (opLow b)
  | 0x8 => column8 (opLow b)
  | 0x9 => column9 (opLow b)
  | 0xA => columnA (opLow b)
  | 0xB => columnMem (fun f => .one fun dd => f (.dir dd)) (fun f => .one fun dd => f (.dir dd)) (opLow b)
  | 0xC => columnMem (fun f => .two fun hh ll => f (.ext (word hh ll)))
      (fun f => .two fun hh ll => f (.ext (word hh ll))) (opLow b)
  | 0xD => columnMem (fun f => .two fun ee ff => f (.ix2 (word ee ff)))
      (fun f => .two fun ee ff => f (.ix2 (word ee ff))) (opLow b)
  | 0xE => columnMem (fun f => .one fun ff => f (.ix1 ff)) (fun f => .one fun ff => f (.ix1 ff)) (opLow b)
  | 0xF => columnMem (fun f => .zero (f .ix)) (fun f => .zero (f .ix)) (opLow b)
  | _ => none

/-- The page-2 opcode map (R95): the byte after the prefix $9E. -/
def page2 (b : Byte) : Option Shape :=
  match opHigh b with
  | 0x6 =>
    match opLow b with
    | 0x1 => some (.two fun ff rr => .cbeq (.sp1 ff) rr)
    | 0xB => some (.two fun ff rr => .dbnz (.sp1 ff) rr)
    | _ => (rmwOp (opLow b)).map fun f => .one fun ff => f (.sp1 ff)
  | 0xD => (memOp (opLow b)).map fun f => .two fun ee ff => f (.sp2 (word ee ff))
  | 0xE => (memOp (opLow b)).map fun f => .one fun ff => f (.sp1 ff)
  | _ => none

/-- The page-2 prefix byte (R81). -/
def prefixByte : Byte := 0x9E

/-- The operand bytes of a shape, taken from what follows the opcode. -/
def Shape.fill (sh : Shape) (bytes : List Byte) : Except DecodeError (Instr × List Byte) :=
  match sh, bytes with
  | .zero i, rest => .ok (i, rest)
  | .one build, a :: rest => .ok (build a, rest)
  | .two build, a :: b :: rest => .ok (build a b, rest)
  | _, _ => .error .truncated

/-- The instruction at the head of a list of bytes, with the bytes that follow it (R82). Total: every
list is an instruction, or is rejected by name. -/
def decode (bytes : List Byte) : Except DecodeError (Instr × List Byte) :=
  match bytes with
  | [] => .error .truncated
  | b0 :: rest =>
    if b0 = prefixByte then
      match rest with
      | [] => .error .truncated
      | b1 :: rest =>
        match page2 b1 with
        | none => .error (.illegalPage2 b1)
        | some sh => sh.fill rest
    else
      match page1 b0 with
      | none => .error (.illegalOpcode b0)
      | some sh => sh.fill rest

/-! ## The encoder -/

/-- The bytes of the accumulator/memory group, low nibble `lo` (head of 41_arithmetic.md). -/
def encodeMem (lo : BitVec 4) : MemMode → List Byte
  | .dir dd => [0xB#4 ++ lo, dd]
  | .ext addr => [0xC#4 ++ lo, hiByte addr, loByte addr]
  | .ix2 off => [0xD#4 ++ lo, hiByte off, loByte off]
  | .ix1 ff => [0xE#4 ++ lo, ff]
  | .ix => [0xF#4 ++ lo]
  | .sp1 ff => [prefixByte, 0xE#4 ++ lo, ff]
  | .sp2 off => [prefixByte, 0xD#4 ++ lo, hiByte off, loByte off]

/-- As `encodeMem`, with the immediate form of column $A. -/
def encodeSrc (lo : BitVec 4) : Src → List Byte
  | .imm ii => [0xA#4 ++ lo, ii]
  | .mem m => encodeMem lo m

/-- The bytes of JMP and JSR (R267, R268). -/
def encodeJump (lo : BitVec 4) : JumpMode → List Byte
  | .dir dd => [0xB#4 ++ lo, dd]
  | .ext addr => [0xC#4 ++ lo, hiByte addr, loByte addr]
  | .ix2 off => [0xD#4 ++ lo, hiByte off, loByte off]
  | .ix1 ff => [0xE#4 ++ lo, ff]
  | .ix => [0xF#4 ++ lo]

/-- The bytes of the memory forms of the read-modify-write group (head of 41_arithmetic.md). -/
def encodeRmw (lo : BitVec 4) : RmwMode → List Byte
  | .dir dd => [0x3#4 ++ lo, dd]
  | .ix1 ff => [0x6#4 ++ lo, ff]
  | .ix => [0x7#4 ++ lo]
  | .sp1 ff => [prefixByte, 0x6#4 ++ lo, ff]

/-- The opcode of the bit group (R96): column, bit number in bits 3:1, clear in bit 0. -/
def encodeBitOp (column : BitVec 4) (n : BitNum) (clear : BitVec 1) : Byte := column ++ n ++ clear

/-- The bytes of an instruction (R84, R95 to R98 and the Encoding line of each instruction rule). -/
def encode : Instr → List Byte
  | .lda m => encodeSrc 0x6 m
  | .ldx m => encodeSrc 0xE m
  | .ldhx (.imm v) => [0x45, hiByte v, loByte v]
  | .ldhx (.dir dd) => [0x55, dd]
  | .sta m => encodeMem 0x7 m
  | .stx m => encodeMem 0xF m
  | .sthx dd => [0x35, dd]
  | .psha => [0x87]
  | .pshh => [0x8B]
  | .pshx => [0x89]
  | .pula => [0x86]
  | .pulh => [0x8A]
  | .pulx => [0x88]
  | .tap => [0x84]
  | .tpa => [0x85]
  | .tax => [0x97]
  | .txa => [0x9F]
  | .txs => [0x94]
  | .tsx => [0x95]
  | .mov (.dd src dst) => [0x4E, src, dst]
  | .mov (.dixPlus src) => [0x5E, src]
  | .mov (.imd ii dst) => [0x6E, ii, dst]
  | .mov (.ixPlusD dst) => [0x7E, dst]
  | .add m => encodeSrc 0xB m
  | .adc m => encodeSrc 0x9 m
  | .sub m => encodeSrc 0x0 m
  | .sbc m => encodeSrc 0x2 m
  | .mul => [0x42]
  | .div => [0x52]
  | .inc m => encodeRmw 0xC m
  | .inca => [0x4C]
  | .incx => [0x5C]
  | .dec m => encodeRmw 0xA m
  | .deca => [0x4A]
  | .decx => [0x5A]
  | .com m => encodeRmw 0x3 m
  | .coma => [0x43]
  | .comx => [0x53]
  | .neg m => encodeRmw 0x0 m
  | .nega => [0x40]
  | .negx => [0x50]
  | .cmp m => encodeSrc 0x1 m
  | .cpx m => encodeSrc 0x3 m
  | .cphx (.imm v) => [0x65, hiByte v, loByte v]
  | .cphx (.dir dd) => [0x75, dd]
  | .clr m => encodeRmw 0xF m
  | .clra => [0x4F]
  | .clrx => [0x5F]
  | .clrh => [0x8C]
  | .tst m => encodeRmw 0xD m
  | .tsta => [0x4D]
  | .tstx => [0x5D]
  | .ais ii => [0xA7, ii]
  | .aix ii => [0xAF, ii]
  | .and m => encodeSrc 0x4 m
  | .ora m => encodeSrc 0xA m
  | .eor m => encodeSrc 0x8 m
  | .bit m => encodeSrc 0x5 m
  | .bclr n dd => [encodeBitOp 0x1 n 1, dd]
  | .bset n dd => [encodeBitOp 0x1 n 0, dd]
  | .clc => [0x98]
  | .sec => [0x99]
  | .cli => [0x9A]
  | .sei => [0x9B]
  | .lsl m => encodeRmw 0x8 m
  | .lsla => [0x48]
  | .lslx => [0x58]
  | .asl m => encodeRmw 0x8 m
  | .asla => [0x48]
  | .aslx => [0x58]
  | .asr m => encodeRmw 0x7 m
  | .asra => [0x47]
  | .asrx => [0x57]
  | .lsr m => encodeRmw 0x4 m
  | .lsra => [0x44]
  | .lsrx => [0x54]
  | .rol m => encodeRmw 0x9 m
  | .rola => [0x49]
  | .rolx => [0x59]
  | .ror m => encodeRmw 0x6 m
  | .rora => [0x46]
  | .rorx => [0x56]
  | .bcc rr => [0x24, rr]
  | .bcs rr => [0x25, rr]
  | .bhcc rr => [0x28, rr]
  | .bhcs rr => [0x29, rr]
  | .bhi rr => [0x22, rr]
  | .bhs rr => [0x24, rr]
  | .blo rr => [0x25, rr]
  | .bls rr => [0x23, rr]
  | .bpl rr => [0x2A, rr]
  | .bmi rr => [0x2B, rr]
  | .beq rr => [0x27, rr]
  | .bne rr => [0x26, rr]
  | .bge rr => [0x90, rr]
  | .bgt rr => [0x92, rr]
  | .ble rr => [0x93, rr]
  | .blt rr => [0x91, rr]
  | .bih rr => [0x2F, rr]
  | .bil rr => [0x2E, rr]
  | .bmc rr => [0x2C, rr]
  | .bms rr => [0x2D, rr]
  | .bra rr => [0x20, rr]
  | .brn rr => [0x21, rr]
  | .brclr n dd rr => [encodeBitOp 0x0 n 1, dd, rr]
  | .brset n dd rr => [encodeBitOp 0x0 n 0, dd, rr]
  | .cbeq (.dir dd) rr => [0x31, dd, rr]
  | .cbeq .ixPlus rr => [0x71, rr]
  | .cbeq (.ix1Plus ff) rr => [0x61, ff, rr]
  | .cbeq (.sp1 ff) rr => [prefixByte, 0x61, ff, rr]
  | .cbeqa ii rr => [0x41, ii, rr]
  | .cbeqx ii rr => [0x51, ii, rr]
  | .dbnz m rr => encodeRmw 0xB m ++ [rr]
  | .dbnza rr => [0x4B, rr]
  | .dbnzx rr => [0x5B, rr]
  | .jmp m => encodeJump 0xC m
  | .jsr m => encodeJump 0xD m
  | .bsr rr => [0xAD, rr]
  | .rts => [0x81]
  | .swi => [0x83]
  | .rti => [0x80]
  | .daa => [0x72]
  | .nsa => [0x62]
  | .rsp => [0x9C]
  | .nop => [0x9D]
  | .stop => [0x8E]
  | .wait => [0x8F]

/-! ## The opcode table's words -/

/-- Byte `k` of a number, byte 0 its low byte. -/
def numByte (w k : Nat) : Byte := BitVec.ofNat 8 (w / 256 ^ k)

/-- The first bytes of a table word `w` of `nbits` bits, in the order they lie in memory. A two-byte
entry of the table is a page-2 opcode, written there with the prefix $9E in its high byte; a word
that numbers its bits from the first byte on has the prefix in its low byte instead. Both give the
prefix first (log 26). -/
def tableOpcodeBytes (nbits w : Nat) : List Byte :=
  let count := nbits / 8
  let lowFirst := (List.range count).map (numByte w)
  if numByte w (count - 1) = prefixByte then lowFirst.reverse else lowFirst

/-- The bytes of a table word, with three operand bytes of zeros after it (no instruction is longer
than four bytes, R80). -/
def tableBytes (nbits w : Nat) : List Byte := tableOpcodeBytes nbits w ++ [0, 0, 0]

/-- The instruction the decoder reads from a word of spec/opcode_table.json, `none` where it refuses. -/
def decodeTableWord (nbits w : Nat) : Option Instr :=
  match decode (tableBytes nbits w) with
  | .ok (i, _) => some i
  | .error _ => none

end Sys2Proof
end

