-- ==== Sys2Proof/Machine/Timing.lean ====
section
/-! DEFINITION. Bus cycles (70_reset_and_hazards.md R352): no result depends on them; a ghost counter
adds them up (92_eei_decisions.md D34, log 28). -/

namespace Sys2Proof.Machine

/-- The accumulator/memory group: DIR, EXT, IX2, IX1, IX, SP1, SP2. -/
def memCycles : MemMode → Nat
  | .dir _ => 3
  | .ext _ => 4
  | .ix2 _ => 4
  | .ix1 _ => 3
  | .ix => 2
  | .sp1 _ => 4
  | .sp2 _ => 5

/-- The accumulator/memory group with its IMM form. -/
def srcCycles : Src → Nat
  | .imm _ => 2
  | .mem m => memCycles m

/-- The memory forms of the read-modify-write group: DIR, IX1, IX, SP1. -/
def rmwCycles : RmwMode → Nat
  | .dir _ => 4
  | .ix1 _ => 4
  | .ix => 3
  | .sp1 _ => 5

/-- The memory forms of CLR and TST. -/
def clrTstCycles : RmwMode → Nat
  | .dir _ => 3
  | .ix1 _ => 3
  | .ix => 2
  | .sp1 _ => 4

/-- LDHX and CPHX. -/
def src16Cycles : Src16 → Nat
  | .imm _ => 3
  | .dir _ => 4

/-- MOV. -/
def movCycles : MovMode → Nat
  | .dd _ _ => 5
  | .dixPlus _ => 4
  | .imd _ _ => 4
  | .ixPlusD _ => 4

/-- The memory forms of CBEQ. -/
def cbeqCycles : CbeqMode → Nat
  | .dir _ => 5
  | .ixPlus => 4
  | .ix1Plus _ => 5
  | .sp1 _ => 6

/-- The memory forms of DBNZ. -/
def dbnzCycles : RmwMode → Nat
  | .dir _ => 5
  | .ix1 _ => 5
  | .ix => 4
  | .sp1 _ => 6

/-- JMP. -/
def jmpCycles : JumpMode → Nat
  | .dir _ => 2
  | .ext _ => 3
  | .ix2 _ => 4
  | .ix1 _ => 3
  | .ix => 2

/-- JSR. -/
def jsrCycles : JumpMode → Nat
  | .dir _ => 4
  | .ext _ => 5
  | .ix2 _ => 6
  | .ix1 _ => 5
  | .ix => 4

/-- The bus cycles of an instruction (R352). -/
def cycles : Instr → Nat
  | .lda m => srcCycles m
  | .ldx m => srcCycles m
  | .ldhx m => src16Cycles m
  | .sta m => memCycles m
  | .stx m => memCycles m
  | .sthx _ => 4
  | .psha => 2
  | .pshh => 2
  | .pshx => 2
  | .pula => 2
  | .pulh => 2
  | .pulx => 2
  | .tap => 2
  | .tpa => 1
  | .tax => 1
  | .txa => 1
  | .txs => 2
  | .tsx => 2
  | .mov m => movCycles m
  | .add m => srcCycles m
  | .adc m => srcCycles m
  | .sub m => srcCycles m
  | .sbc m => srcCycles m
  | .mul => 5
  | .div => 7
  | .inc m => rmwCycles m
  | .inca => 1
  | .incx => 1
  | .dec m => rmwCycles m
  | .deca => 1
  | .decx => 1
  | .com m => rmwCycles m
  | .coma => 1
  | .comx => 1
  | .neg m => rmwCycles m
  | .nega => 1
  | .negx => 1
  | .cmp m => srcCycles m
  | .cpx m => srcCycles m
  | .cphx m => src16Cycles m
  | .clr m => clrTstCycles m
  | .clra => 1
  | .clrx => 1
  | .clrh => 1
  | .tst m => clrTstCycles m
  | .tsta => 1
  | .tstx => 1
  | .ais _ => 2
  | .aix _ => 2
  | .and m => srcCycles m
  | .ora m => srcCycles m
  | .eor m => srcCycles m
  | .bit m => srcCycles m
  | .bclr _ _ => 4
  | .bset _ _ => 4
  | .clc => 1
  | .sec => 1
  | .cli => 2
  | .sei => 2
  | .lsl m => rmwCycles m
  | .lsla => 1
  | .lslx => 1
  | .asl m => rmwCycles m
  | .asla => 1
  | .aslx => 1
  | .asr m => rmwCycles m
  | .asra => 1
  | .asrx => 1
  | .lsr m => rmwCycles m
  | .lsra => 1
  | .lsrx => 1
  | .rol m => rmwCycles m
  | .rola => 1
  | .rolx => 1
  | .ror m => rmwCycles m
  | .rora => 1
  | .rorx => 1
  | .bcc _ => 3
  | .bcs _ => 3
  | .bhcc _ => 3
  | .bhcs _ => 3
  | .bhi _ => 3
  | .bhs _ => 3
  | .blo _ => 3
  | .bls _ => 3
  | .bpl _ => 3
  | .bmi _ => 3
  | .beq _ => 3
  | .bne _ => 3
  | .bge _ => 3
  | .bgt _ => 3
  | .ble _ => 3
  | .blt _ => 3
  | .bih _ => 3
  | .bil _ => 3
  | .bmc _ => 3
  | .bms _ => 3
  | .bra _ => 3
  | .brn _ => 3
  | .brclr _ _ _ => 5
  | .brset _ _ _ => 5
  | .cbeq m _ => cbeqCycles m
  | .cbeqa _ _ => 4
  | .cbeqx _ _ => 4
  | .dbnz m _ => dbnzCycles m
  | .dbnza _ => 3
  | .dbnzx _ => 3
  | .jmp m => jmpCycles m
  | .jsr m => jsrCycles m
  | .bsr _ => 4
  | .rts => 4
  | .swi => 9
  | .rti => 7
  | .daa => 2
  | .nsa => 3
  | .rsp => 1
  | .nop => 1
  | .stop => 1
  | .wait => 1

end Sys2Proof.Machine
end

