-- ==== Sys2Proof/Machine/Fetch.lean ====
section
/-! DEFINITION. Fetching an instruction (30_encoding.md R82, 20_memory.md R66) and what follows its
execution: the bytes at its own `PCnext` that it overwrote (U8) and its bus cycles (R352). -/

namespace Sys2Proof.Machine

/-- The old value of a byte that an instruction overwrote at its own `PCnext`, if it is still open which of
the two is executed (U8). -/
def State.staleAt (s : State) (a : Addr) : Option Byte :=
  (s.stale.find? fun e => decide (e.addr = a)).map StaleByte.old

/-- `Fetch8()` (R11). Where an instruction overwrote the byte at its own `PCnext`, the old or the new one is
executed, by a free choice (R66, U8, log 14). -/
def fetchByte (s : State) : Access (Byte × State) := do
  let (new, t) ← readByte s.pc s
  match s.staleAt s.pc with
  | none => return (new, t.setPc (s.pc + 1))
  | some old => return (if t.freeBit then old else new, t.drawn.setPc (s.pc + 1))

/-- The operand bytes of a shape, fetched in order (R82). -/
def fetchOperands (sh : Shape) (s : State) : Access (Instr × State) :=
  match sh with
  | .zero i => .ok (i, s)
  | .one build => do
    let (a, s) ← fetchByte s
    return (build a, s)
  | .two build => do
    let (a, s) ← fetchByte s
    let (b, s) ← fetchByte s
    return (build a b, s)

/-- The opcode byte or bytes, fetched; an illegal encoding is a fault in the state before the fetch
(R81, R82, R100, R301). -/
def fetchShape (s : State) : Access (Shape × State) := do
  let (b0, t) ← fetchByte s
  if b0 = prefixByte then
    let (b1, t) ← fetchByte t
    match page2 b1 with
    | some sh => return (sh, t)
    | none => .error (.illegalOpcode s.pc s)
  else
    match page1 b0 with
    | some sh => return (sh, t)
    | none => .error (.illegalOpcode s.pc s)

/-- The stale bytes left once the instruction from `start` up to PC is fetched: its own bytes have been
executed, and what an earlier instruction wrote at `PCnext = start` has had its effect (U8, log 14). -/
def State.staleBeyond (s : State) (start : Addr) : List StaleByte :=
  s.stale.filter fun e => decide (e.next ≠ start ∧ (s.pc - start).toNat ≤ (e.addr - start).toNat)

/-- The instruction at PC, fetched: PC is PCnext afterwards (R26). -/
def fetchInstr (s : State) : Access (Instr × State) := do
  let (sh, t) ← fetchShape s
  let (i, t) ← fetchOperands sh t
  return (i, t.setStale (t.staleBeyond s.pc))

/-! ## A store into the instruction at `PCnext` (R66, U8) -/

/-- The number of operand bytes of a shape (R84). -/
def operandCount : Shape → Nat
  | .zero _ => 0
  | .one _ => 1
  | .two _ => 2

/-- The length of the encoding that starts with two bytes (R82); of an illegal one, the bytes that show it. -/
def lengthFrom (b0 b1 : Byte) : Nat :=
  if b0 = prefixByte then 2 + ((page2 b1).map operandCount).getD 0
  else 1 + ((page1 b0).map operandCount).getD 0

/-- The bytes that a fetch at an address may give once the instruction that ran from `before` to `after` is
done: the memory's before and after it, and one still open from earlier; `unknown` where no memory stands. -/
def readings (before after : State) (unknown : List Byte) (a : Addr) : List Byte :=
  match before.kindAt a with
  | .ram => before.mem.read a.toNat :: after.mem.read a.toNat :: (before.staleAt a).toList
  | .rom => before.mem.read a.toNat :: after.mem.read a.toNat :: (before.staleAt a).toList
  | .io _ => unknown
  | .unimplemented => unknown

/-- How many bytes belong to the instruction at `PCnext`: the longest of its readings. For an unknown first
byte stand the prefix and a three-byte opcode, for an unknown second one a four-byte opcode. -/
def nextLength (before after : State) : Nat :=
  ((readings before after [prefixByte, 0xC6] before.pc).flatMap fun b0 =>
    (readings before after [0xD6] (before.pc + 1)).map fun b1 => lengthFrom b0 b1).foldl max 0

/-- The bytes of the instruction at its own `PCnext` that an instruction changed, wherever control goes. -/
def overwritten (before after : State) : List StaleByte :=
  (List.range (nextLength before after)).filterMap fun k =>
    let a := before.pc + BitVec.ofNat 16 k
    if before.mem.read a.toNat = after.mem.read a.toNat then none
    else some { next := before.pc, addr := a, old := before.mem.read a.toNat }

/-- What the step adds after an instruction has run from `before` to `after`. -/
def retire (i : Instr) (before after : State) : State :=
  (after.setStale (overwritten before after ++ after.stale)).setCycles (after.cycles + cycles i)

end Sys2Proof.Machine
end

