-- ==== Sys2Proof/Machine/Run.lean ====
section
/-! DEFINITION. What a step does once its inputs are sampled (60_exceptions.md R317). -/

namespace Sys2Proof.Machine

/-- One instruction fetched and executed. -/
def runInstr (s : State) : Host.Outcome State Fault Refusal :=
  match fetchInstr s with
  | .error f => .fault f
  | .ok (i, t) =>
    match exec i t with
    | .next u => .next (retire i t u)
    | .fault f => .fault f
    | .refused r => .refused r

/-- What a step does when neither reset nor an interrupt is taken: an instruction in Running, nothing
in Waiting and Stopped. -/
def proceed (s : State) : Host.Outcome State Fault Refusal :=
  match s.mode with
  | .running => runInstr s
  | .waiting => .next s
  | .stopped => .next s

/-- A step after its sample (R317): reset comes first, then a recognised interrupt (the CLI delay ends at
this boundary either way, R303), then the instruction. -/
def advance (s : State) : Host.Outcome State Fault Refusal :=
  if s.resetRequested then answer (takeReset s)
  else
    match s.recognised with
    | some p => answer (takeInterrupt p (s.setInhibitNext false))
    | none => proceed (s.setInhibitNext false)

end Sys2Proof.Machine
end

