-- ==== Sys2Proof/Machine/Step.lean ====
section
/-! DEFINITION. One step of the machine (60_exceptions.md R317), and the loading of one instruction
where the next step fetches. -/

namespace Sys2Proof.Machine

/-- One step (R317): the inputs are sampled once, then the machine advances. -/
def step (s : State) : Host.Outcome State Fault Refusal := advance s.sampled

/-- The state with one instruction of the opcode table, operand bits zero, stored at PC, and nothing in
the way of its execution by the next step: Running, no request pending, no input sample waiting, no
stale byte. It stands for the loading of a program from outside the machine (log 27). -/
def State.withFetchWord (s : State) (nbits w : Nat) : State :=
  ((((s.setMem (Memory.load s.mem s.pc ((tableBytes nbits w).take 4))).setMode .running).setPending
    []).setInputs []).setStale []

end Sys2Proof.Machine
end

