-- ==== Sys2Proof/Safety.lean ====
section
/-! DEFINITION. The terms that claims about the machine are stated in: which addresses are memory,
what an operand is, which addresses an instruction stores to, which instructions may write which
register or flag, and the invariant of every run. -/

namespace Sys2Proof.Machine

/-! ## Addresses and bytes -/

/-- The address is RAM. -/
abbrev State.isRam (s : State) (a : Addr) : Prop := s.kindAt a = .ram

/-- The address is RAM or ROM: its reads return a memory cell. -/
abbrev State.isMemory (s : State) (a : Addr) : Prop := s.kindAt a = .ram ∨ s.kindAt a = .rom

/-- The `n` bytes from an address on, modulo 65536. -/
def bytesAt (m : Memory) (a : Addr) : Nat → List Byte
  | 0 => []
  | n + 1 => m.read a.toNat :: bytesAt m (a + 1) n

/-- The step does not stop the machine. -/
def SafeStep (s : State) : Prop := ∃ t, step s = .next t

/-! ## Operands -/

/-- The operand can be read: an immediate always, a memory operand where its address answers. -/
abbrev srcAnswers (m : Src) (s : State) : Prop :=
  match m with
  | .imm _ => True
  | .mem m => s.answers (ea m s) = true

/-- The operand's value. -/
def srcValue (m : Src) (s : State) : Byte :=
  match m with
  | .imm ii => ii
  | .mem m => s.byteAt (ea m s)

/-- The state after the operand is read. -/
def srcAfter (m : Src) (s : State) : State :=
  match m with
  | .imm _ => s
  | .mem m => s.afterRead (ea m s)

/-- The 16-bit operand can be read: both bytes of the direct form answer. -/
abbrev src16Answers (m : Src16) (s : State) : Prop :=
  match m with
  | .imm _ => True
  | .dir dd => s.answers (directAddr dd) = true ∧ s.answers (directAddr dd + 1) = true

/-- The 16-bit operand's value: the high byte is read first, at the lower address. -/
def src16Value (m : Src16) (s : State) : Addr :=
  match m with
  | .imm v => v
  | .dir dd => word (s.byteAt (directAddr dd)) ((s.afterRead (directAddr dd)).byteAt (directAddr dd + 1))

/-- The state after the 16-bit operand is read. -/
def src16After (m : Src16) (s : State) : State :=
  match m with
  | .imm _ => s
  | .dir dd => (s.afterRead (directAddr dd)).afterRead (directAddr dd + 1)

/-! ## The stack -/

/-- The state after one byte is pushed. -/
def State.pushed (s : State) (v : Byte) : State := (s.afterWrite s.sp v).setSp (s.sp - 1)

/-- The byte that a pull returns. -/
def State.top (s : State) : Byte := s.byteAt (s.sp + 1)

/-- The state after one byte is pulled. -/
def State.pulled (s : State) : State := (s.afterRead (s.sp + 1)).setSp (s.sp + 1)

/-- The `n` addresses that pushes store to, from SP downward. -/
def pushAddrs (sp : Addr) (n : Nat) : List Addr := (List.range n).map fun k => sp - BitVec.ofNat 16 k

/-- The `n` addresses that pulls read, from SP + 1 upward. -/
def pullAddrs (sp : Addr) (n : Nat) : List Addr := (List.range n).map fun k => sp + 1 + BitVec.ofNat 16 k

/-- The memory after the interrupt frame is pushed on a stack in RAM: PCL, PCH, X, A, CCR from SP
downward (R302). -/
def frameMemory (ret : Addr) (s : State) : Memory :=
  Memory.write (Memory.write (Memory.write (Memory.write (Memory.write s.mem
    s.sp.toNat (loByte ret)) (s.sp - 1).toNat (hiByte ret)) (s.sp - 2).toNat s.x)
    (s.sp - 3).toNat s.a) (s.sp - 4).toNat s.ccr.toByte

/-- The stale bytes once every address of the list is stored to: those in RAM are settled (R66, R348). -/
def State.staleOutside (s : State) (as : List Addr) : List StaleByte :=
  s.stale.filter fun e => decide (¬ (e.addr ∈ as ∧ s.isRam e.addr))

/-- Every address of the list answers. -/
abbrev State.allAnswer (s : State) (as : List Addr) : Prop := ∀ a ∈ as, s.answers a = true

/-! ## The flags of a result -/

/-- `V <- 0; N <- r[7]; Z <- (r == 0)`, as the rules of loads, stores and logic say it. -/
def flagsOfByte (f : Ccr) (r : Nat) : Ccr := { f with v := false, n := decide (128 ≤ r), z := decide (r = 0) }

/-- `V <- 0; N <- r[15]; Z <- (r == 0)`. -/
def flagsOfWord (f : Ccr) (r : Nat) : Ccr := { f with v := false, n := decide (32768 ≤ r), z := decide (r = 0) }

/-- The flags of an exact unsigned sum of bytes and of the exact signed sum of the same bytes: C is the
carry out of bit 7, HC the carry out of bit 3, V signed overflow. -/
def flagsOfSum (f : Ccr) (unsigned low : Nat) (signed : Int) : Ccr :=
  { f with
    c := decide (256 ≤ unsigned), hc := decide (16 ≤ low), v := decide (signed < -128 ∨ 127 < signed)
    n := decide (128 ≤ unsigned % 256), z := decide (unsigned % 256 = 0) }

/-- The flags of an exact difference of `size`-valued words: C is the borrow, V signed overflow. -/
def flagsOfDifference (f : Ccr) (size : Nat) (unsigned signed : Int) : Ccr :=
  { f with
    c := decide (unsigned < 0), v := decide (signed < -(size / 2 : Nat) ∨ (size / 2 : Nat) ≤ signed)
    n := decide ((size / 2 : Nat) ≤ unsigned % size), z := decide (unsigned % size = 0) }

/-- The flags of a shift or rotate: C is the bit shifted out, V is N xor C after it. -/
def flagsOfShift (f : Ccr) (r : Nat) (out : Bool) : Ccr :=
  { f with c := out, n := decide (128 ≤ r), z := decide (r = 0), v := xor (decide (128 ≤ r)) out }

/-- A bit as a number. -/
def bitValue (b : Bool) : Nat := if b then 1 else 0

/-- The correction table of DAA as R290 prints it: C before, digits A[7:4] from and to, HC before, digits
A[3:0] from and to, correction, C after. -/
def daaTable : List (Bool × (Nat × Nat) × Bool × (Nat × Nat) × Nat × Bool) :=
  [(false, (0, 9), false, (0, 9), 0x00, false),
   (false, (0, 8), false, (10, 15), 0x06, false),
   (false, (0, 9), true, (0, 3), 0x06, false),
   (false, (10, 15), false, (0, 9), 0x60, true),
   (false, (9, 15), false, (10, 15), 0x66, true),
   (false, (10, 15), true, (0, 3), 0x66, true),
   (true, (0, 2), false, (0, 9), 0x60, true),
   (true, (0, 2), false, (10, 15), 0x66, true),
   (true, (0, 3), true, (0, 3), 0x66, true)]

/-- The state's C, HC and digits of A match a row of the table. -/
abbrev daaMatches (row : Bool × (Nat × Nat) × Bool × (Nat × Nat) × Nat × Bool) (s : State) : Prop :=
  s.ccr.c = row.1 ∧ row.2.1.1 ≤ s.a.toNat / 16 ∧ s.a.toNat / 16 ≤ row.2.1.2 ∧
  s.ccr.hc = row.2.2.1 ∧ row.2.2.2.1.1 ≤ s.a.toNat % 16 ∧ s.a.toNat % 16 ≤ row.2.2.2.1.2

/-- The packed-BCD byte of a number below 100: tens digit in bits 7:4, units in bits 3:0. -/
def packedBcd (n : Nat) : Byte := BitVec.ofNat 8 (n / 10 * 16 + n % 10)

/-! ## The forms of the read-modify-write group -/

/-- An operation runs on A, on X and on a memory byte, with its result and its flags in place of the
operand and of the CCR, and nothing else changed. -/
def RunsOnAllForms (onMem : RmwMode → Instr) (onA onX : Instr) (op : Byte → Ccr → Byte × Ccr) : Prop :=
  (∀ s : State, exec onA s = .next { s with a := (op s.a s.ccr).1, ccr := (op s.a s.ccr).2 }) ∧
  (∀ s : State, exec onX s = .next { s with x := (op s.x s.ccr).1, ccr := (op s.x s.ccr).2 }) ∧
  (∀ (m : RmwMode) (s : State), s.answers (ea (rmwMem m) s) = true →
    exec (onMem m) s = .next
      { (s.afterRead (ea (rmwMem m) s)).afterWrite (ea (rmwMem m) s) (op (s.byteAt (ea (rmwMem m) s)) s.ccr).1 with
        ccr := (op (s.byteAt (ea (rmwMem m) s)) s.ccr).2 })

/-- The branch instruction is taken exactly when the condition holds, and changes PC only. -/
def BranchesWhen (i : Byte → Instr) (cond : State → Prop) : Prop :=
  ∀ (rr : Byte) (s : State),
    (cond s → exec (i rr) s = .next { s with pc := BitVec.ofInt 16 (s.pc.toNat + rr.toInt) }) ∧
    (¬ cond s → exec (i rr) s = .next s)

/-! ## What an instruction may touch -/

/-- The addresses an instruction stores to, by the expressions of its meaning, in the state in which it
is executed. -/
def storeAddrs (i : Instr) (s : State) : List Addr :=
  match i with
  | .sta m => [ea m s]
  | .stx m => [ea m s]
  | .sthx dd => [directAddr dd, directAddr dd + 1]
  | .psha => pushAddrs s.sp 1
  | .pshh => pushAddrs s.sp 1
  | .pshx => pushAddrs s.sp 1
  | .mov (.dd _ dst) => [directAddr dst]
  | .mov (.dixPlus _) => [s.hx]
  | .mov (.imd _ dst) => [directAddr dst]
  | .mov (.ixPlusD dst) => [directAddr dst]
  | .inc m => [ea (rmwMem m) s]
  | .dec m => [ea (rmwMem m) s]
  | .com m => [ea (rmwMem m) s]
  | .neg m => [ea (rmwMem m) s]
  | .clr m => [ea (rmwMem m) s]
  | .lsl m => [ea (rmwMem m) s]
  | .asl m => [ea (rmwMem m) s]
  | .asr m => [ea (rmwMem m) s]
  | .lsr m => [ea (rmwMem m) s]
  | .rol m => [ea (rmwMem m) s]
  | .ror m => [ea (rmwMem m) s]
  | .bclr _ dd => [directAddr dd]
  | .bset _ dd => [directAddr dd]
  | .dbnz m _ => [ea (rmwMem m) s]
  | .jsr _ => pushAddrs s.sp 2
  | .bsr _ => pushAddrs s.sp 2
  | .swi => pushAddrs s.sp 5
  | _ => []

/-- The instructions that write A (R21). -/
def writesA : Instr → Bool
  | .lda _ | .pula | .tpa | .txa | .add _ | .adc _ | .sub _ | .sbc _ | .and _ | .ora _ | .eor _ | .mul
  | .div | .inca | .deca | .coma | .nega | .clra | .asla | .asra | .lsla | .lsra | .rola | .rora
  | .dbnza _ | .daa | .nsa | .rti => true
  | _ => false

/-- The instructions that write X, alone or as part of H:X (R22, R24). -/
def writesX : Instr → Bool
  | .ldx _ | .pulx | .tax | .mul | .incx | .decx | .comx | .negx | .clrx | .aslx | .asrx | .lslx
  | .lsrx | .rolx | .rorx | .dbnzx _ | .rti | .ldhx _ | .tsx | .aix _
  | .mov (.dixPlus _) | .mov (.ixPlusD _) | .cbeq .ixPlus _ | .cbeq (.ix1Plus _) _ => true
  | _ => false

/-- The instructions that write H, alone or as part of H:X (R23, R24). -/
def writesH : Instr → Bool
  | .pulh | .clrh | .div | .ldhx _ | .tsx | .aix _
  | .mov (.dixPlus _) | .mov (.ixPlusD _) | .cbeq .ixPlus _ | .cbeq (.ix1Plus _) _ => true
  | _ => false

/-- The instructions that move SP (R25, R345). -/
def writesSp : Instr → Bool
  | .txs | .ais _ | .rsp | .psha | .pshh | .pshx | .pula | .pulh | .pulx | .jsr _ | .bsr _ | .rts
  | .swi | .rti => true
  | _ => false

/-- The control transfers: every other instruction ends with PC = PCnext (R26). -/
def writesPc : Instr → Bool
  | .bcc _ | .bcs _ | .bhcc _ | .bhcs _ | .bhi _ | .bhs _ | .blo _ | .bls _ | .bpl _ | .bmi _ | .beq _
  | .bne _ | .bge _ | .bgt _ | .ble _ | .blt _ | .bih _ | .bil _ | .bmc _ | .bms _ | .bra _
  | .brclr _ _ _ | .brset _ _ _ | .cbeq _ _ | .cbeqa _ _ | .cbeqx _ _ | .dbnz _ _ | .dbnza _
  | .dbnzx _ | .jmp _ | .jsr _ | .bsr _ | .rts | .swi | .rti => true
  | _ => false

/-- The instructions that write the half-carry flag (R29). -/
def writesHalfCarry : Instr → Bool
  | .add _ | .adc _ | .mul | .tap | .rti => true
  | _ => false

/-- The instructions that write the interrupt mask (R30). -/
def writesMask : Instr → Bool
  | .sei | .cli | .swi | .stop | .wait | .tap | .rti => true
  | _ => false

/-- The instructions that write the carry flag (R33). -/
def writesCarry : Instr → Bool
  | .add _ | .adc _ | .sub _ | .sbc _ | .cmp _ | .cpx _ | .cphx _ | .neg _ | .nega | .negx
  | .com _ | .coma | .comx | .lsl _ | .lsla | .lslx | .asl _ | .asla | .aslx | .asr _ | .asra | .asrx
  | .lsr _ | .lsra | .lsrx | .rol _ | .rola | .rolx | .ror _ | .rora | .rorx
  | .mul | .div | .daa | .clc | .sec | .brclr _ _ _ | .brset _ _ _ | .tap | .rti => true
  | _ => false

/-- The instructions that write N (R31). -/
def writesN : Instr → Bool
  | .lda _ | .ldx _ | .ldhx _ | .sta _ | .stx _ | .sthx _ | .mov _ | .add _ | .adc _ | .sub _ | .sbc _
  | .inc _ | .inca | .incx | .dec _ | .deca | .decx | .com _ | .coma | .comx | .neg _ | .nega | .negx
  | .cmp _ | .cpx _ | .cphx _ | .clr _ | .clra | .clrx | .clrh | .tst _ | .tsta | .tstx
  | .and _ | .ora _ | .eor _ | .bit _ | .lsl _ | .lsla | .lslx | .asl _ | .asla | .aslx
  | .asr _ | .asra | .asrx | .lsr _ | .lsra | .lsrx | .rol _ | .rola | .rolx | .ror _ | .rora | .rorx
  | .daa | .tap | .rti => true
  | _ => false

/-- The instructions that write Z: those that write N, and DIV (R32). -/
def writesZ (i : Instr) : Bool := writesN i || i == .div

/-- The instructions that write V: those that write N (R28). -/
def writesV (i : Instr) : Bool := writesN i

/-- The instructions that enter or leave a power state (R37, R302, R316). -/
def writesMode : Instr → Bool
  | .wait | .stop | .swi => true
  | _ => false

/-! ## The invariant -/

/-- What holds at reset and after every step: the memory is in canonical form; in WAIT and STOP the mask
is clear and no CLI delay runs; the requests are distinct sources of the platform; a stale byte lies in the
four bytes from its `PCnext` on and memory holds another value there; no address is stale twice. -/
structure State.Inv (s : State) : Prop where
  mem : s.mem.wf
  idle : s.mode ≠ .running → s.ccr.i = false ∧ s.inhibitNext = false
  pending : ∀ p ∈ s.pending, p ∈ s.platform.intSources
  distinct : s.pending.Nodup
  stale : ∀ e ∈ s.stale, e.old ≠ s.mem.read e.addr.toNat ∧ (e.addr - e.next).toNat < 4
  staleOnce : (s.stale.map StaleByte.addr).Nodup

end Sys2Proof.Machine
end

