-- ==== Sys2Proof/Certificates/Slice0/Obligations.lean ====
section
/-! DEFINITION. The statements for the provers. Each docstring names the rule it formalises. -/

open Sys2Proof Sys2Proof.Machine

/-! ## Encoding -/

/-- R84, R95 to R98: decoding what the encoder writes gives the instruction back, whatever follows. -/
def Obligations.DecodeUndoesEncode : Prop :=
  ∀ (i : Instr) (rest : List Byte), i.WellFormed → decode (encode i ++ rest) = .ok (i, rest)

/-- R82: bytes that decode are the encoding of what they decode to, so each instruction has one encoding
and the decoder answers canonical spellings only. -/
def Obligations.DecodedBytesAreTheEncoding : Prop :=
  ∀ (bytes rest : List Byte) (i : Instr), decode bytes = .ok (i, rest) →
    bytes = encode i ++ rest ∧ i.WellFormed

/-- R220, R246, R247: a second spelling has the bytes and the effect of the name the map uses. -/
def Obligations.SecondSpellingsAreTheSameInstruction : Prop :=
  ∀ (i : Instr) (rest : List Byte) (s : State),
    decode (encode i ++ rest) = .ok (i.canonical, rest) ∧ encode i = encode i.canonical ∧
    exec i s = exec i.canonical s

/-- R100: exactly the six listed opcodes, and after $9E exactly the bytes outside the 41 of R95, select no
instruction. -/
def Obligations.IllegalEncodingsAreExactlyTheListed : Prop :=
  (∀ (b : Byte) (rest : List Byte), decode (b :: rest) = .error (.illegalOpcode b) ↔
    b ∈ ([0x32, 0x3E, 0x82, 0x8D, 0x96, 0xAC] : List Byte)) ∧
  (∀ (b : Byte) (rest : List Byte), decode (0x9E :: b :: rest) = .error (.illegalPage2 b) ↔
    b ∉ ([0x60, 0x61, 0x63, 0x64, 0x66, 0x67, 0x68, 0x69, 0x6A, 0x6B, 0x6C, 0x6D, 0x6F,
      0xD0, 0xD1, 0xD2, 0xD3, 0xD4, 0xD5, 0xD6, 0xD7, 0xD8, 0xD9, 0xDA, 0xDB, 0xDE, 0xDF,
      0xE0, 0xE1, 0xE2, 0xE3, 0xE4, 0xE5, 0xE6, 0xE7, 0xE8, 0xE9, 0xEA, 0xEB, 0xEE, 0xEF] : List Byte))

/-- Words written out from the spec's encodings (R120, R138, R265, R264, R268) decode to their instructions. -/
def Obligations.SpecEncodingsDecode : Prop :=
  decode [0xA6, 0x80] = .ok (.lda (.imm 0x80), []) ∧
  decode [0x9E, 0xD6, 0x01, 0x00] = .ok (.lda (.mem (.sp2 0x0100)), []) ∧
  decode [0x4E, 0x50, 0x60] = .ok (.mov (.dd 0x50 0x60), []) ∧
  decode [0x71, 0x02] = .ok (.cbeq .ixPlus 0x02, []) ∧
  decode [0x0E, 0x50, 0x10] = .ok (.brset 7 0x50 0x10, []) ∧
  decode [0xCD, 0x90, 0x00] = .ok (.jsr (.ext 0x9000), [])

/-! ## Addresses and accesses -/

/-- R87 to R93, R58: the effective address of every mode, as a number modulo 65536; 8-bit offsets are
unsigned and H takes part. -/
def Obligations.EffectiveAddressesWrapModulo65536 : Prop :=
  ∀ (s : State) (b : Byte) (w : Addr),
    (ea (.dir b) s).toNat = b.toNat ∧
    (ea (.ext w) s).toNat = w.toNat ∧
    (ea .ix s).toNat = s.h.toNat * 256 + s.x.toNat ∧
    (ea (.ix1 b) s).toNat = (s.h.toNat * 256 + s.x.toNat + b.toNat) % 65536 ∧
    (ea (.ix2 w) s).toNat = (s.h.toNat * 256 + s.x.toNat + w.toNat) % 65536 ∧
    (ea (.sp1 b) s).toNat = (s.sp.toNat + b.toNat) % 65536 ∧
    (ea (.sp2 w) s).toNat = (s.sp.toNat + w.toNat) % 65536

/-- R61 with U9 and U16: what a read and a write of one byte do behind each kind of address. That a device
takes a write unseen is the model's choice (log 24); that a write to RAM settles a stale byte there is its form of
R66 and R348 (log 14). -/
def Obligations.AccessesFollowTheMemoryMap : Prop :=
  ∀ (s : State) (a : Addr) (v : Byte),
    (s.kindAt a = .ram →
      readByte a s = .ok (s.mem.read a.toNat, s) ∧
      ∃ t, writeByte a v s = .ok t ∧
        t = { s with mem := t.mem, stale := s.staleOutside [a] } ∧
        ∀ b, t.mem.read b = if b = a.toNat then v else s.mem.read b) ∧
    (s.kindAt a = .rom → readByte a s = .ok (s.mem.read a.toNat, s) ∧ writeByte a v s = .ok s) ∧
    (∀ d, s.kindAt a = .io d →
      readByte a s = .ok (Config.freeByte s.draws, { s with draws := s.draws + 1 }) ∧
      writeByte a v s = .ok s) ∧
    (s.kindAt a = .unimplemented → s.platform.illegalAddress = .fault →
      readByte a s = .error (.illegalAddress a s) ∧ writeByte a v s = .error (.illegalAddress a s)) ∧
    (s.kindAt a = .unimplemented → s.platform.illegalAddress = .drawAndIgnore →
      readByte a s = .ok (Config.freeByte s.draws, { s with draws := s.draws + 1 }) ∧
      writeByte a v s = .ok s)

/-- R52, R55, R57, as functions on access results: 16-bit accesses are big-endian and byte by byte, a push
stores at SP and then decrements it, a pull increments SP and then reads. The vocabulary of the statements
below (byteAt, afterRead, afterWrite, pushed, top, pulled) is tied here to the model's accesses. -/
def Obligations.AccessSequencesAreTheirByteAccesses : Prop :=
  ∀ (s : State) (a w : Addr) (v : Byte),
    readByte a s = (if s.answers a then .ok (s.byteAt a, s.afterRead a) else .error (.illegalAddress a s)) ∧
    writeByte a v s = (if s.answers a then .ok (s.afterWrite a v) else .error (.illegalAddress a s)) ∧
    (s.answers a = true → s.answers (a + 1) = true →
      readWord a s = .ok (word (s.byteAt a) ((s.afterRead a).byteAt (a + 1)),
        (s.afterRead a).afterRead (a + 1)) ∧
      writeWord a w s = .ok ((s.afterWrite a (hiByte w)).afterWrite (a + 1) (loByte w))) ∧
    (s.answers s.sp = true → push8 v s = .ok { s.afterWrite s.sp v with sp := s.sp - 1 }) ∧
    (s.answers (s.sp + 1) = true →
      pull8 s = .ok (s.byteAt (s.sp + 1), { s.afterRead (s.sp + 1) with sp := s.sp + 1 }))

/-! ## Data movement -/

/-- R120, R121, R122: LDA, LDX, LDHX load the operand, clear V, set N and Z from it, and change nothing
else. -/
def Obligations.LoadsSetRegisterAndFlags : Prop :=
  (∀ (m : Src) (s : State), srcAnswers m s →
    exec (.lda m) s = .next { srcAfter m s with
      a := srcValue m s, ccr := flagsOfByte s.ccr (srcValue m s).toNat } ∧
    exec (.ldx m) s = .next { srcAfter m s with
      x := srcValue m s, ccr := flagsOfByte s.ccr (srcValue m s).toNat }) ∧
  (∀ (m : Src16) (s : State), src16Answers m s →
    exec (.ldhx m) s = .next { src16After m s with
      h := BitVec.ofNat 8 ((src16Value m s).toNat / 256), x := BitVec.ofNat 8 (src16Value m s).toNat
      ccr := flagsOfWord s.ccr (src16Value m s).toNat })

/-- R123, R124, R125: STA, STX, STHX store the register at the effective address, clear V, set N and Z from
the value stored, and change nothing else. -/
def Obligations.StoresWriteMemoryAndFlags : Prop :=
  (∀ (m : MemMode) (s : State), s.answers (ea m s) = true →
    exec (.sta m) s = .next { s.afterWrite (ea m s) s.a with ccr := flagsOfByte s.ccr s.a.toNat } ∧
    exec (.stx m) s = .next { s.afterWrite (ea m s) s.x with ccr := flagsOfByte s.ccr s.x.toNat }) ∧
  (∀ (dd : Byte) (s : State), s.answers (directAddr dd) = true → s.answers (directAddr dd + 1) = true →
    exec (.sthx dd) s = .next { (s.afterWrite (directAddr dd) s.h).afterWrite (directAddr dd + 1) s.x with
      ccr := flagsOfWord s.ccr (s.h.toNat * 256 + s.x.toNat) })

/-- R126 to R131: the pushes store the register at SP and decrement SP; the pulls increment SP and load the
register from there; no flag and nothing else changes. -/
def Obligations.PushesAndPullsMoveOneByte : Prop :=
  (∀ s : State, s.answers s.sp = true →
    exec .psha s = .next { s.afterWrite s.sp s.a with sp := s.sp - 1 } ∧
    exec .pshh s = .next { s.afterWrite s.sp s.h with sp := s.sp - 1 } ∧
    exec .pshx s = .next { s.afterWrite s.sp s.x with sp := s.sp - 1 }) ∧
  (∀ s : State, s.answers (s.sp + 1) = true →
    exec .pula s = .next { s.afterRead (s.sp + 1) with sp := s.sp + 1, a := s.byteAt (s.sp + 1) } ∧
    exec .pulh s = .next { s.afterRead (s.sp + 1) with sp := s.sp + 1, h := s.byteAt (s.sp + 1) } ∧
    exec .pulx s = .next { s.afterRead (s.sp + 1) with sp := s.sp + 1, x := s.byteAt (s.sp + 1) })

/-- R132 to R137: the register transfers. TAP loads the six flags from their bits of A, TPA reads bits 6 and
5 as 1, TXS subtracts one, TSX adds one, and no other transfer touches a flag. -/
def Obligations.TransfersCopyRegisters : Prop :=
  ∀ s : State,
    exec .tap s = .next { s with ccr :=
      { v := s.a.toNat.testBit 7, hc := s.a.toNat.testBit 4, i := s.a.toNat.testBit 3
        n := s.a.toNat.testBit 2, z := s.a.toNat.testBit 1, c := s.a.toNat.testBit 0 } } ∧
    exec .tpa s = .next { s with a := BitVec.ofNat 8 (128 * bitValue s.ccr.v + 96 + 16 * bitValue s.ccr.hc +
      8 * bitValue s.ccr.i + 4 * bitValue s.ccr.n + 2 * bitValue s.ccr.z + bitValue s.ccr.c) } ∧
    exec .tax s = .next { s with x := s.a } ∧
    exec .txa s = .next { s with a := s.x } ∧
    exec .txs s = .next { s with sp := BitVec.ofInt 16 ((s.h.toNat * 256 + s.x.toNat : Nat) - 1 : Int) } ∧
    exec .tsx s = .next { s with
      h := BitVec.ofNat 8 ((s.sp.toNat + 1) / 256), x := BitVec.ofNat 8 (s.sp.toNat + 1) }

/-- R34: the CCR as a byte is V:1:1:HC:I:N:Z:C where TPA reads it and where the frame of an exception holds it,
and a write of it by TAP and by RTI takes the six flags and ignores bits 6 and 5. -/
def Obligations.CcrByteHoldsSixFlags : Prop :=
  (∀ f : Ccr, f.toByte.getLsbD 7 = f.v ∧ f.toByte.getLsbD 6 = true ∧ f.toByte.getLsbD 5 = true ∧
    f.toByte.getLsbD 4 = f.hc ∧ f.toByte.getLsbD 3 = f.i ∧ f.toByte.getLsbD 2 = f.n ∧
    f.toByte.getLsbD 1 = f.z ∧ f.toByte.getLsbD 0 = f.c) ∧
  (∀ b : Byte, Ccr.ofByte b =
    { v := b.getLsbD 7, hc := b.getLsbD 4, i := b.getLsbD 3
      n := b.getLsbD 2, z := b.getLsbD 1, c := b.getLsbD 0 }) ∧
  (∀ s : State, exec .tpa s = .next { s with a := s.ccr.toByte } ∧
    exec .tap s = .next { s with ccr := .ofByte s.a }) ∧
  (∀ (ret : Addr) (s : State), (∀ a ∈ pushAddrs s.sp 5, s.isRam a) →
    ∃ t, pushFrame ret s = .ok t ∧ t.mem.read (s.sp - 4).toNat = s.ccr.toByte) ∧
  (∀ s : State, s.allAnswer (pullAddrs s.sp 5) → ∃ t, exec .rti s = .next t ∧ t.ccr = .ofByte s.top)

/-- R138: the four forms of MOV copy one byte, read before write, step H:X by one in the X+ forms, clear V,
set N and Z from the byte, and change nothing else. -/
def Obligations.MovCopiesOneByte : Prop :=
  (∀ (src dst : Byte) (s : State), s.answers (directAddr src) = true → s.answers (directAddr dst) = true →
    exec (.mov (.dd src dst)) s = .next
      { (s.afterRead (directAddr src)).afterWrite (directAddr dst) (s.byteAt (directAddr src)) with
        ccr := flagsOfByte s.ccr (s.byteAt (directAddr src)).toNat }) ∧
  (∀ (src : Byte) (s : State), s.answers (directAddr src) = true → s.answers s.hx = true →
    exec (.mov (.dixPlus src)) s = .next
      { (s.afterRead (directAddr src)).afterWrite s.hx (s.byteAt (directAddr src)) with
        h := BitVec.ofNat 8 ((s.h.toNat * 256 + s.x.toNat + 1) / 256), x := s.x + 1
        ccr := flagsOfByte s.ccr (s.byteAt (directAddr src)).toNat }) ∧
  (∀ (ii dst : Byte) (s : State), s.answers (directAddr dst) = true →
    exec (.mov (.imd ii dst)) s = .next
      { s.afterWrite (directAddr dst) ii with ccr := flagsOfByte s.ccr ii.toNat }) ∧
  (∀ (dst : Byte) (s : State), s.answers s.hx = true → s.answers (directAddr dst) = true →
    exec (.mov (.ixPlusD dst)) s = .next
      { (s.afterRead s.hx).afterWrite (directAddr dst) (s.byteAt s.hx) with
        h := BitVec.ofNat 8 ((s.h.toNat * 256 + s.x.toNat + 1) / 256), x := s.x + 1
        ccr := flagsOfByte s.ccr (s.byteAt s.hx).toNat })

/-! ## Arithmetic -/

/-- R160, R161: ADD and ADC leave the sum modulo 256 in A; C is the carry out of bit 7, HC the carry out of
bit 3, V signed overflow, N and Z those of the result; I and everything else stay. -/
def Obligations.AdditionsSumAndSetFlags : Prop :=
  ∀ (m : Src) (s : State), srcAnswers m s →
    exec (.add m) s = .next { srcAfter m s with
      a := BitVec.ofNat 8 (s.a.toNat + (srcValue m s).toNat)
      ccr := flagsOfSum s.ccr (s.a.toNat + (srcValue m s).toNat)
        (s.a.toNat % 16 + (srcValue m s).toNat % 16) (s.a.toInt + (srcValue m s).toInt) } ∧
    exec (.adc m) s = .next { srcAfter m s with
      a := BitVec.ofNat 8 (s.a.toNat + (srcValue m s).toNat + bitValue s.ccr.c)
      ccr := flagsOfSum s.ccr (s.a.toNat + (srcValue m s).toNat + bitValue s.ccr.c)
        (s.a.toNat % 16 + (srcValue m s).toNat % 16 + bitValue s.ccr.c)
        (s.a.toInt + (srcValue m s).toInt + bitValue s.ccr.c) }

/-- R162, R163: SUB and SBC leave the difference modulo 256 in A; C is the borrow, V signed overflow, N and Z
those of the result; HC, I and everything else stay. -/
def Obligations.SubtractionsBorrowAndSetFlags : Prop :=
  ∀ (m : Src) (s : State), srcAnswers m s →
    exec (.sub m) s = .next { srcAfter m s with
      a := BitVec.ofInt 8 ((s.a.toNat : Int) - (srcValue m s).toNat)
      ccr := flagsOfDifference s.ccr 256 ((s.a.toNat : Int) - (srcValue m s).toNat)
        (s.a.toInt - (srcValue m s).toInt) } ∧
    exec (.sbc m) s = .next { srcAfter m s with
      a := BitVec.ofInt 8 ((s.a.toNat : Int) - (srcValue m s).toNat - bitValue s.ccr.c)
      ccr := flagsOfDifference s.ccr 256 ((s.a.toNat : Int) - (srcValue m s).toNat - bitValue s.ccr.c)
        (s.a.toInt - (srcValue m s).toInt - bitValue s.ccr.c) }

/-- R170, R171, R172: CMP, CPX and CPHX set the flags of the difference (over 16 bits for CPHX) and change
nothing else. -/
def Obligations.ComparesSetFlagsOnly : Prop :=
  (∀ (m : Src) (s : State), srcAnswers m s →
    exec (.cmp m) s = .next { srcAfter m s with
      ccr := flagsOfDifference s.ccr 256 ((s.a.toNat : Int) - (srcValue m s).toNat)
        (s.a.toInt - (srcValue m s).toInt) } ∧
    exec (.cpx m) s = .next { srcAfter m s with
      ccr := flagsOfDifference s.ccr 256 ((s.x.toNat : Int) - (srcValue m s).toNat)
        (s.x.toInt - (srcValue m s).toInt) }) ∧
  (∀ (m : Src16) (s : State), src16Answers m s →
    exec (.cphx m) s = .next { src16After m s with
      ccr := flagsOfDifference s.ccr 65536 ((s.hx.toNat : Int) - (src16Value m s).toNat)
        (s.hx.toInt - (src16Value m s).toInt) })

/-- R164: MUL leaves the 16-bit product in X:A and clears HC and C; nothing else changes. -/
def Obligations.MulLeavesProductInXA : Prop :=
  ∀ s : State, exec .mul s = .next { s with
    x := BitVec.ofNat 8 (s.x.toNat * s.a.toNat / 256), a := BitVec.ofNat 8 (s.x.toNat * s.a.toNat)
    ccr := { s.ccr with hc := false, c := false } }

/-- R165: DIV divides H:A by X where the quotient fits; otherwise (H not below X, or X = 0) C is set and A, H
and Z take free values, whatever they are, and nothing else changes but the model's count of draws (log 8, 9). -/
def Obligations.DivGivesQuotientOrFreeValues : Prop :=
  ∀ s : State,
    (s.h.toNat < s.x.toNat → exec .div s = .next { s with
      a := BitVec.ofNat 8 ((s.h.toNat * 256 + s.a.toNat) / s.x.toNat)
      h := BitVec.ofNat 8 ((s.h.toNat * 256 + s.a.toNat) % s.x.toNat)
      ccr := { s.ccr with z := decide ((s.h.toNat * 256 + s.a.toNat) / s.x.toNat = 0), c := false } }) ∧
    (s.x.toNat ≤ s.h.toNat → exec .div s = .next { s with
      a := Config.freeByte s.draws, h := Config.freeByte (s.draws + 1)
      ccr := { s.ccr with z := Config.freeBit (s.draws + 2), c := true }
      draws := s.draws + 3 })

/-- R166, R167: INC and DEC on memory, A and X: one more or less modulo 256, V exactly at $7F and $80, N and Z
of the result, C not written. -/
def Obligations.IncrementsAndDecrementsKeepCarry : Prop :=
  RunsOnAllForms .inc .inca .incx (fun m f => (BitVec.ofNat 8 (m.toNat + 1),
    { f with v := decide (m.toNat = 127), n := decide (128 ≤ (m.toNat + 1) % 256)
             z := decide ((m.toNat + 1) % 256 = 0) })) ∧
  RunsOnAllForms .dec .deca .decx (fun m f => (BitVec.ofInt 8 ((m.toNat : Int) - 1),
    { f with v := decide (m.toNat = 128), n := decide (128 ≤ (m.toNat + 255) % 256)
             z := decide ((m.toNat + 255) % 256 = 0) }))

/-- R168, R169: COM gives $FF - M with V clear and C set; NEG gives $00 - M with C = (M not 0) and V = (M is
$80); N and Z of the result. -/
def Obligations.ComplementAndNegate : Prop :=
  RunsOnAllForms .com .coma .comx (fun m f => (BitVec.ofNat 8 (255 - m.toNat),
    { f with v := false, c := true, n := decide (128 ≤ 255 - m.toNat), z := decide (255 - m.toNat = 0) })) ∧
  RunsOnAllForms .neg .nega .negx (fun m f => (BitVec.ofNat 8 (256 - m.toNat),
    { f with v := decide (m.toNat = 128), c := decide (m.toNat ≠ 0)
             n := decide (128 ≤ (256 - m.toNat) % 256), z := decide (m.toNat = 0) }))

/-- R173, R174: CLR writes $00 and sets V, N, Z to 0, 0, 1, first reading memory exactly where the platform's
CLR reads; TST clears V and sets N and Z from the operand, writing nothing; C is written by neither. -/
def Obligations.ClearsAndTests : Prop :=
  (∀ s : State,
    exec .clra s = .next { s with a := 0, ccr := { s.ccr with v := false, n := false, z := true } } ∧
    exec .clrx s = .next { s with x := 0, ccr := { s.ccr with v := false, n := false, z := true } } ∧
    exec .clrh s = .next { s with h := 0, ccr := { s.ccr with v := false, n := false, z := true } } ∧
    exec .tsta s = .next { s with ccr := flagsOfByte s.ccr s.a.toNat } ∧
    exec .tstx s = .next { s with ccr := flagsOfByte s.ccr s.x.toNat }) ∧
  (∀ (m : RmwMode) (s : State), s.answers (ea (rmwMem m) s) = true →
    exec (.clr m) s = .next
      { (if s.platform.clrReadsFirst then s.afterRead (ea (rmwMem m) s) else s).afterWrite
          (ea (rmwMem m) s) 0 with ccr := { s.ccr with v := false, n := false, z := true } } ∧
    exec (.tst m) s = .next { s.afterRead (ea (rmwMem m) s) with
      ccr := flagsOfByte s.ccr (s.byteAt (ea (rmwMem m) s)).toNat })

/-- R175, R176: AIS and AIX add the sign-extended immediate to the 16-bit SP and H:X, modulo 65536, and write
no flag. -/
def Obligations.AisAndAixAddSigned : Prop :=
  ∀ (ii : Byte) (s : State),
    exec (.ais ii) s = .next { s with sp := BitVec.ofInt 16 (s.sp.toNat + ii.toInt) } ∧
    exec (.aix ii) s = .next { s with
      h := BitVec.ofInt 8 ((s.h.toNat * 256 + s.x.toNat + ii.toInt) / 256)
      x := BitVec.ofInt 8 (s.x.toNat + ii.toInt) }

/-! ## Logic, bits and flags -/

/-- R200 to R203: AND, ORA, EOR combine A and the operand bit by bit, BIT only tests; V is cleared, N and Z
are those of the combination, C and HC stay. -/
def Obligations.LogicCombinesBitByBit : Prop :=
  ∀ (m : Src) (s : State), srcAnswers m s →
    exec (.and m) s = .next { srcAfter m s with
      a := s.a &&& srcValue m s, ccr := flagsOfByte s.ccr (s.a.toNat &&& (srcValue m s).toNat) } ∧
    exec (.ora m) s = .next { srcAfter m s with
      a := s.a ||| srcValue m s, ccr := flagsOfByte s.ccr (s.a.toNat ||| (srcValue m s).toNat) } ∧
    exec (.eor m) s = .next { srcAfter m s with
      a := s.a ^^^ srcValue m s, ccr := flagsOfByte s.ccr (s.a.toNat ^^^ (srcValue m s).toNat) } ∧
    exec (.bit m) s = .next { srcAfter m s with
      ccr := flagsOfByte s.ccr (s.a.toNat &&& (srcValue m s).toNat) }

/-- R204, R205: BCLR and BSET read a direct-page byte, change the one bit and write the byte back; no flag is
written. -/
def Obligations.BitInstructionsChangeOneBit : Prop :=
  ∀ (n : BitNum) (dd : Byte) (s : State), s.answers (directAddr dd) = true →
    ∃ clear set : Byte,
      exec (.bclr n dd) s = .next ((s.afterRead (directAddr dd)).afterWrite (directAddr dd) clear) ∧
      exec (.bset n dd) s = .next ((s.afterRead (directAddr dd)).afterWrite (directAddr dd) set) ∧
      ∀ k < 8,
        clear.getLsbD k = (decide (k ≠ n.toNat) && (s.byteAt (directAddr dd)).getLsbD k) ∧
        set.getLsbD k = (decide (k = n.toNat) || (s.byteAt (directAddr dd)).getLsbD k)

/-- R206 to R209: CLC, SEC write C only; SEI writes I only; CLI clears I and sets inhibit_next. -/
def Obligations.FlagInstructionsWriteOneFlag : Prop :=
  ∀ s : State,
    exec .clc s = .next { s with ccr := { s.ccr with c := false } } ∧
    exec .sec s = .next { s with ccr := { s.ccr with c := true } } ∧
    exec .cli s = .next { s with ccr := { s.ccr with i := false }, inhibitNext := true } ∧
    exec .sei s = .next { s with ccr := { s.ccr with i := true } }

/-! ## Shifts and rotates -/

/-- R220 to R225: each shift and rotate on memory, A and X, as arithmetic: the result, the bit shifted out to
C, N and Z of the result, V = N xor C. -/
def Obligations.ShiftsAndRotatesMoveOnePlace : Prop :=
  RunsOnAllForms .lsl .lsla .lslx (fun m f =>
    (BitVec.ofNat 8 (2 * m.toNat), flagsOfShift f (2 * m.toNat % 256) (decide (128 ≤ m.toNat)))) ∧
  RunsOnAllForms .asl .asla .aslx (fun m f =>
    (BitVec.ofNat 8 (2 * m.toNat), flagsOfShift f (2 * m.toNat % 256) (decide (128 ≤ m.toNat)))) ∧
  RunsOnAllForms .asr .asra .asrx (fun m f =>
    (BitVec.ofInt 8 (m.toInt / 2), flagsOfShift f (m.toNat / 2 + (m.toNat / 128) * 128)
      (decide (m.toNat % 2 = 1)))) ∧
  RunsOnAllForms .lsr .lsra .lsrx (fun m f =>
    (BitVec.ofNat 8 (m.toNat / 2), flagsOfShift f (m.toNat / 2) (decide (m.toNat % 2 = 1)))) ∧
  RunsOnAllForms .rol .rola .rolx (fun m f =>
    (BitVec.ofNat 8 (2 * m.toNat + bitValue f.c),
      flagsOfShift f ((2 * m.toNat + bitValue f.c) % 256) (decide (128 ≤ m.toNat)))) ∧
  RunsOnAllForms .ror .rora .rorx (fun m f =>
    (BitVec.ofNat 8 (m.toNat / 2 + 128 * bitValue f.c),
      flagsOfShift f (m.toNat / 2 + 128 * bitValue f.c) (decide (m.toNat % 2 = 1))))

/-! ## Program control -/

/-- R240 to R262: each branch is taken exactly on its condition, to PCnext plus the signed displacement; else
PC stays at PCnext; nothing else changes. -/
def Obligations.BranchesFollowTheirConditions : Prop :=
  BranchesWhen .bcc (fun s => s.ccr.c = false) ∧ BranchesWhen .bcs (fun s => s.ccr.c = true) ∧
  BranchesWhen .bhcc (fun s => s.ccr.hc = false) ∧ BranchesWhen .bhcs (fun s => s.ccr.hc = true) ∧
  BranchesWhen .bhi (fun s => s.ccr.c = false ∧ s.ccr.z = false) ∧
  BranchesWhen .bhs (fun s => s.ccr.c = false) ∧ BranchesWhen .blo (fun s => s.ccr.c = true) ∧
  BranchesWhen .bls (fun s => s.ccr.c = true ∨ s.ccr.z = true) ∧
  BranchesWhen .bpl (fun s => s.ccr.n = false) ∧ BranchesWhen .bmi (fun s => s.ccr.n = true) ∧
  BranchesWhen .beq (fun s => s.ccr.z = true) ∧ BranchesWhen .bne (fun s => s.ccr.z = false) ∧
  BranchesWhen .bge (fun s => s.ccr.n = s.ccr.v) ∧
  BranchesWhen .bgt (fun s => s.ccr.z = false ∧ s.ccr.n = s.ccr.v) ∧
  BranchesWhen .ble (fun s => s.ccr.z = true ∨ s.ccr.n ≠ s.ccr.v) ∧
  BranchesWhen .blt (fun s => s.ccr.n ≠ s.ccr.v) ∧
  BranchesWhen .bih (fun s => s.irqPin = true) ∧ BranchesWhen .bil (fun s => s.irqPin = false) ∧
  BranchesWhen .bmc (fun s => s.ccr.i = false) ∧ BranchesWhen .bms (fun s => s.ccr.i = true) ∧
  BranchesWhen .bra (fun _ => True) ∧ BranchesWhen .brn (fun _ => False)

/-- R170, R240: after CMP of A with an operand, the unsigned and the signed branches are taken exactly as the
two bytes compare, unsigned for BHI, BHS, BLO, BLS and signed for BGT, BGE, BLT, BLE. -/
def Obligations.BranchesAfterCompareOrderTheOperands : Prop :=
  ∀ (m : Src) (s t : State) (rr : Byte), exec (.cmp m) s = .next t →
    let taken := { t with pc := BitVec.ofInt 16 (t.pc.toNat + rr.toInt) }
    exec (.bhi rr) t = .next (if (srcValue m s).toNat < s.a.toNat then taken else t) ∧
    exec (.bhs rr) t = .next (if (srcValue m s).toNat ≤ s.a.toNat then taken else t) ∧
    exec (.blo rr) t = .next (if s.a.toNat < (srcValue m s).toNat then taken else t) ∧
    exec (.bls rr) t = .next (if s.a.toNat ≤ (srcValue m s).toNat then taken else t) ∧
    exec (.bgt rr) t = .next (if (srcValue m s).toInt < s.a.toInt then taken else t) ∧
    exec (.bge rr) t = .next (if (srcValue m s).toInt ≤ s.a.toInt then taken else t) ∧
    exec (.blt rr) t = .next (if s.a.toInt < (srcValue m s).toInt then taken else t) ∧
    exec (.ble rr) t = .next (if s.a.toInt ≤ (srcValue m s).toInt then taken else t)

/-- R263, R264: BRCLR and BRSET copy the tested bit to C and branch when it is 0, and 1. -/
def Obligations.BitBranchesTestOneBit : Prop :=
  ∀ (n : BitNum) (dd rr : Byte) (s : State), s.answers (directAddr dd) = true →
    exec (.brclr n dd rr) s = .next { s.afterRead (directAddr dd) with
      ccr := { s.ccr with c := (s.byteAt (directAddr dd)).toNat.testBit n.toNat }
      pc := if (s.byteAt (directAddr dd)).toNat.testBit n.toNat then s.pc
        else BitVec.ofInt 16 (s.pc.toNat + rr.toInt) } ∧
    exec (.brset n dd rr) s = .next { s.afterRead (directAddr dd) with
      ccr := { s.ccr with c := (s.byteAt (directAddr dd)).toNat.testBit n.toNat }
      pc := if (s.byteAt (directAddr dd)).toNat.testBit n.toNat then
        BitVec.ofInt 16 (s.pc.toNat + rr.toInt) else s.pc }

/-- R265, R351: CBEQ, CBEQA, CBEQX branch when the register equals the operand, write no flag, and the X+ forms
step H:X by one on both outcomes. -/
def Obligations.CompareAndBranchIfEqual : Prop :=
  (∀ (m : CbeqMode) (rr : Byte) (s : State), s.answers (ea (cbeqMem m) s) = true →
    let plus := m = .ixPlus ∨ ∃ ff, m = .ix1Plus ff
    (plus → exec (.cbeq m rr) s = .next { s.afterRead (ea (cbeqMem m) s) with
      h := BitVec.ofNat 8 ((s.h.toNat * 256 + s.x.toNat + 1) / 256), x := s.x + 1
      pc := if s.a = s.byteAt (ea (cbeqMem m) s) then BitVec.ofInt 16 (s.pc.toNat + rr.toInt) else s.pc }) ∧
    (¬ plus → exec (.cbeq m rr) s = .next { s.afterRead (ea (cbeqMem m) s) with
      pc := if s.a = s.byteAt (ea (cbeqMem m) s) then BitVec.ofInt 16 (s.pc.toNat + rr.toInt) else s.pc })) ∧
  (∀ (ii rr : Byte) (s : State),
    exec (.cbeqa ii rr) s = .next { s with
      pc := if s.a = ii then BitVec.ofInt 16 (s.pc.toNat + rr.toInt) else s.pc } ∧
    exec (.cbeqx ii rr) s = .next { s with
      pc := if s.x = ii then BitVec.ofInt 16 (s.pc.toNat + rr.toInt) else s.pc })

/-- R266: DBNZ on memory, A and X subtracts one modulo 256 and branches when the result is not zero; no flag is
written. -/
def Obligations.DecrementAndBranchIfNotZero : Prop :=
  (∀ (m : RmwMode) (rr : Byte) (s : State), s.answers (ea (rmwMem m) s) = true →
    exec (.dbnz m rr) s = .next
      { (s.afterRead (ea (rmwMem m) s)).afterWrite (ea (rmwMem m) s)
          (BitVec.ofNat 8 ((s.byteAt (ea (rmwMem m) s)).toNat + 255)) with
        pc := if (s.byteAt (ea (rmwMem m) s)).toNat = 1 then s.pc
          else BitVec.ofInt 16 (s.pc.toNat + rr.toInt) }) ∧
  (∀ (rr : Byte) (s : State),
    exec (.dbnza rr) s = .next { s with
      a := BitVec.ofNat 8 (s.a.toNat + 255)
      pc := if s.a.toNat = 1 then s.pc else BitVec.ofInt 16 (s.pc.toNat + rr.toInt) } ∧
    exec (.dbnzx rr) s = .next { s with
      x := BitVec.ofNat 8 (s.x.toNat + 255)
      pc := if s.x.toNat = 1 then s.pc else BitVec.ofInt 16 (s.pc.toNat + rr.toInt) })

/-- R267 to R270: JMP takes the effective address; JSR and BSR push PCnext, PCL at the higher address, and take
the address and the relative target; RTS pulls PCH then PCL. No flag is written. -/
def Obligations.JumpsCallsAndReturns : Prop :=
  (∀ (m : JumpMode) (s : State), exec (.jmp m) s = .next { s with pc := ea (jumpMem m) s }) ∧
  (∀ s : State, s.allAnswer (pushAddrs s.sp 2) →
    (∀ m : JumpMode, exec (.jsr m) s = .next
      { (s.afterWrite s.sp (BitVec.ofNat 8 s.pc.toNat)).afterWrite (s.sp - 1)
          (BitVec.ofNat 8 (s.pc.toNat / 256)) with sp := s.sp - 2, pc := ea (jumpMem m) s }) ∧
    (∀ rr : Byte, exec (.bsr rr) s = .next
      { (s.afterWrite s.sp (BitVec.ofNat 8 s.pc.toNat)).afterWrite (s.sp - 1)
          (BitVec.ofNat 8 (s.pc.toNat / 256)) with
        sp := s.sp - 2, pc := BitVec.ofInt 16 (s.pc.toNat + rr.toInt) })) ∧
  (∀ s : State, s.allAnswer (pullAddrs s.sp 2) →
    exec .rts s = .next { (s.afterRead (s.sp + 1)).afterRead (s.sp + 2) with
      sp := s.sp + 2
      pc := BitVec.ofNat 16 ((s.byteAt (s.sp + 1)).toNat * 256 +
        ((s.afterRead (s.sp + 1)).byteAt (s.sp + 2)).toNat) })

/-- R268, R270: a call and a return on a stack in RAM come back to the address after the call with SP as it was;
A, X, H and the flags are untouched; stale bytes under the two bytes pushed are settled (log 14). -/
def Obligations.CallThenReturnComesBack : Prop :=
  ∀ (m : JumpMode) (s : State), s.isRam s.sp → s.isRam (s.sp - 1) →
    ∃ t u, exec (.jsr m) s = .next t ∧ t.pc = ea (jumpMem m) s ∧
      exec .rts t = .next u ∧
      u = { s with mem := t.mem, stale := s.staleOutside (pushAddrs s.sp 2) }

/-- R271, R302: SWI on a stack in RAM pushes PCL, PCH, X, A and the CCR with the old I, sets I, and loads PC from
$FFFC:$FFFD; H, A, X and the other flags stay; stale bytes under the frame are settled (log 14). -/
def Obligations.SwiTakesTheException : Prop :=
  ∀ s : State, (∀ a ∈ pushAddrs s.sp 5, s.isRam a) → s.isMemory 0xFFFC → s.isMemory 0xFFFD →
    exec .swi s = .next { s with
      mem := frameMemory s.pc s, sp := s.sp - 5, mode := .running, ccr := { s.ccr with i := true }
      pc := BitVec.ofNat 16 (((frameMemory s.pc s).read 0xFFFC).toNat * 256 +
        ((frameMemory s.pc s).read 0xFFFD).toNat)
      stale := s.staleOutside (pushAddrs s.sp 5) }

/-- R272: RTI pulls CCR, A, X, PCH, PCL in that order; H stays. -/
def Obligations.RtiPullsTheFrame : Prop :=
  ∀ s : State, s.allAnswer (pullAddrs s.sp 5) →
    exec .rti s = .next { s.pulled.pulled.pulled.pulled.pulled with
      ccr := { v := s.top.toNat.testBit 7, hc := s.top.toNat.testBit 4, i := s.top.toNat.testBit 3
               n := s.top.toNat.testBit 2, z := s.top.toNat.testBit 1, c := s.top.toNat.testBit 0 }
      a := s.pulled.top
      x := s.pulled.pulled.top
      pc := BitVec.ofNat 16 (s.pulled.pulled.pulled.top.toNat * 256 +
        s.pulled.pulled.pulled.pulled.top.toNat) }

/-- R307, R309: taking an exception and then returning from it, on a stack in RAM, restores A, X, PC, SP and all
six flags; H and the memory outside the five frame bytes are never touched. -/
def Obligations.TrapThenReturnRestores : Prop :=
  ∀ (vector ret : Addr) (s : State), (∀ a ∈ pushAddrs s.sp 5, s.isRam a) →
    s.answers vector = true → s.answers (vector + 1) = true →
    ∃ t u, trapEntry vector ret s = .ok t ∧ t.ccr.i = true ∧ t.sp = s.sp - 5 ∧
      exec .rti t = .next u ∧ u.a = s.a ∧ u.x = s.x ∧ u.h = s.h ∧ u.ccr = s.ccr ∧ u.sp = s.sp ∧
      u.pc = ret ∧ ∀ b : Addr, b ∉ pushAddrs s.sp 5 → u.mem.read b.toNat = s.mem.read b.toNat

/-! ## BCD and special -/

/-- R290: where a row of the correction table matches, DAA adds its correction, sets C from it, N and Z of the
corrected A and V free; where none matches, A, C, N, Z and V are free; HC, I and everything else stay but the
model's count of draws (log 8, 10). -/
def Obligations.DaaFollowsItsTable : Prop :=
  ∀ s : State,
    (∀ row ∈ daaTable, daaMatches row s →
      exec .daa s = .next { s with
        a := BitVec.ofNat 8 (s.a.toNat + row.2.2.2.2.1)
        ccr := { s.ccr with
          v := Config.freeBit s.draws, c := row.2.2.2.2.2
          n := decide (128 ≤ (s.a.toNat + row.2.2.2.2.1) % 256)
          z := decide ((s.a.toNat + row.2.2.2.2.1) % 256 = 0) }
        draws := s.draws + 1 }) ∧
    ((∀ row ∈ daaTable, ¬ daaMatches row s) →
      exec .daa s = .next { s with
        a := Config.freeByte s.draws
        ccr := { s.ccr with
          c := Config.freeBit (s.draws + 1), n := Config.freeBit (s.draws + 2)
          z := Config.freeBit (s.draws + 3), v := Config.freeBit (s.draws + 4) }
        draws := s.draws + 5 })

/-- R290: DAA after ADC of two packed-BCD bytes leaves the packed-BCD sum in A and the decimal carry in C. -/
def Obligations.DaaAfterAdcAddsDecimally : Prop :=
  ∀ (p q : Nat) (s t u : State), p < 100 → q < 100 → s.a = packedBcd p →
    exec (.adc (.imm (packedBcd q))) s = .next t → exec .daa t = .next u →
    u.a = packedBcd ((p + q + bitValue s.ccr.c) % 100) ∧
    u.ccr.c = decide (100 ≤ p + q + bitValue s.ccr.c)

/-- R291, R292, R293: NSA exchanges the digits of A, RSP sets the low byte of SP to $FF and keeps the high byte,
NOP changes nothing. -/
def Obligations.NsaRspNop : Prop :=
  ∀ s : State,
    exec .nsa s = .next { s with a := BitVec.ofNat 8 (s.a.toNat % 16 * 16 + s.a.toNat / 16) } ∧
    exec .rsp s = .next { s with sp := BitVec.ofNat 16 (s.sp.toNat / 256 * 256 + 255) } ∧
    exec .nop s = .next s

/-- R294, R295: WAIT and STOP clear I and enter their mode; STOP on a platform that disables it is an illegal
opcode at its own address. That the fault carries the state with PC back at the opcode is the model's choice
(log 13, 36). -/
def Obligations.WaitAndStopEnterTheirModes : Prop :=
  ∀ s : State,
    exec .wait s = .next { s with ccr := { s.ccr with i := false }, mode := .waiting } ∧
    (s.platform.stopEnabled = true →
      exec .stop s = .next { s with ccr := { s.ccr with i := false }, mode := .stopped }) ∧
    (s.platform.stopEnabled = false →
      exec .stop s = .fault (.illegalOpcode (s.pc - 1) { s with pc := s.pc - 1 }))

/-! ## What an instruction leaves alone -/

/-- R21 to R26, R345, R347: each register keeps its value under every instruction that is not named as writing
it, whatever the operand form. -/
def Obligations.RegistersChangeOnlyByTheirWriters : Prop :=
  ∀ (i : Instr) (s t : State), exec i s = .next t →
    (writesA i = false → t.a = s.a) ∧ (writesX i = false → t.x = s.x) ∧ (writesH i = false → t.h = s.h) ∧
    (writesSp i = false → t.sp = s.sp) ∧ (writesPc i = false → t.pc = s.pc)

/-- R28 to R33, R350: each flag keeps its value under every instruction that is not named as writing it. -/
def Obligations.FlagsChangeOnlyByTheirWriters : Prop :=
  ∀ (i : Instr) (s t : State), exec i s = .next t →
    (writesV i = false → t.ccr.v = s.ccr.v) ∧ (writesHalfCarry i = false → t.ccr.hc = s.ccr.hc) ∧
    (writesMask i = false → t.ccr.i = s.ccr.i) ∧ (writesN i = false → t.ccr.n = s.ccr.n) ∧
    (writesZ i = false → t.ccr.z = s.ccr.z) ∧ (writesCarry i = false → t.ccr.c = s.ccr.c)

/-- R51, R56, R57: every byte outside the addresses the instruction stores to, computed as its meaning computes
them, reads as before; an instruction that stores nothing leaves all of memory alone. -/
def Obligations.MemoryChangesOnlyAtStoreAddresses : Prop :=
  ∀ (i : Instr) (s t : State) (b : Addr), exec i s = .next t → b ∉ storeAddrs i s →
    t.mem.read b.toNat = s.mem.read b.toNat

/-- R37, R208, R316: no instruction touches the requests, the inputs or the platform; only CLI writes
inhibit_next, only WAIT, STOP and SWI the mode. The model's own (log 14, 28): of the stale bytes exactly those in
RAM that the instruction stores to are settled, whatever it stores; the cycles are the step's alone. -/
def Obligations.HiddenStateChangesOnlyAsNamed : Prop :=
  ∀ (i : Instr) (s t : State), exec i s = .next t →
    t.pending = s.pending ∧ t.irqPin = s.irqPin ∧ t.resetRequested = s.resetRequested ∧
    t.platform = s.platform ∧ t.inputs = s.inputs ∧ t.cycles = s.cycles ∧
    t.stale = s.staleOutside (storeAddrs i s) ∧
    (i ≠ .cli → t.inhibitNext = s.inhibitNext) ∧ (writesMode i = false → t.mode = s.mode)

/-- R300, R301: no instruction is refused, and one stops only at an unimplemented address of a platform that
faults there, or as a STOP that the platform disables. What state a fault carries is the model's choice
(log 13, 36). -/
def Obligations.OnlyTheTwoNamedFaults : Prop :=
  ∀ (i : Instr) (s : State),
    (∀ r, exec i s ≠ .refused r) ∧
    (∀ f, exec i s = .fault f →
      (∃ a u, f = .illegalAddress a u ∧ s.kindAt a = .unimplemented ∧ s.platform.illegalAddress = .fault) ∨
      (i = .stop ∧ s.platform.stopEnabled = false ∧ f = .illegalOpcode (s.pc - 1) { s with pc := s.pc - 1 }))

/-! ## The step -/

/-- R317, R26: with no reset, no interrupt and bytes of memory at PC, none of them stale, that decode to an
instruction, the step runs that instruction with PC at the byte after it, then adds its cycles and marks the
bytes it overwrote at its own PCnext. What the fetch settles of the stale bytes and what `retire` adds (stale
bytes, the ghost count of cycles) are the model's own (log 14, 28). -/
def Obligations.StepRunsTheDecodedInstruction : Prop :=
  ∀ (s : State) (i : Instr) (n : Nat),
    s.sampled.resetRequested = false → s.sampled.recognised = none → s.mode = .running →
    (∀ k < n, s.isMemory (s.pc + BitVec.ofNat 16 k) ∧ s.staleAt (s.pc + BitVec.ofNat 16 k) = none) →
    decode (bytesAt s.mem s.pc n) = .ok (i, []) →
    let u := { s.sampled with
      inhibitNext := false, pc := s.pc + BitVec.ofNat 16 n
      stale := s.stale.filter fun e => decide (e.next ≠ s.pc) }
    step s =
      match exec i u with
      | .next t => .next (retire i u t)
      | .fault f => .fault f
      | .refused r => .refused r

/-- R100, R301: a step that fetches an illegal encoding stops with IllegalOpcode at the address of its first
byte, the state as before the fetch, which the fault carries (the model's choice, log 11, 13). -/
def Obligations.IllegalEncodingStopsTheStep : Prop :=
  ∀ s : State, s.sampled.resetRequested = false → s.sampled.recognised = none → s.mode = .running →
    s.isMemory s.pc → s.staleAt s.pc = none →
    (s.mem.read s.pc.toNat ∈ ([0x32, 0x3E, 0x82, 0x8D, 0x96, 0xAC] : List Byte) ∨
      (s.mem.read s.pc.toNat = 0x9E ∧ s.isMemory (s.pc + 1) ∧ s.staleAt (s.pc + 1) = none ∧
        ∃ b, decode [0x9E, s.mem.read (s.pc + 1).toNat] = .error (.illegalPage2 b))) →
    step s = .fault (.illegalOpcode s.pc { s.sampled with inhibitNext := false })

/-- R66, R348 and U8 (93_implementation_defined.md), the model's form of them (log 14): a byte of the instruction at
its own PCnext that an instruction changed, wherever control goes, is recorded with its old value and executes as
the old or the new byte by a free choice; the record outlives every other instruction, interrupt entry and reset
until the byte is executed or stored to; any other store to RAM, of whatever value, settles the byte. -/
def Obligations.OverwrittenNextByteIsOldOrNew : Prop :=
  (∀ (i j : Instr) (s t : State) (n k : Nat), (∀ l < n, s.isMemory (s.pc + BitVec.ofNat 16 l)) →
    (decode (bytesAt s.mem s.pc n) = .ok (j, []) ∨ decode (bytesAt t.mem s.pc n) = .ok (j, [])) → k < n →
    s.mem.read (s.pc + BitVec.ofNat 16 k).toNat ≠ t.mem.read (s.pc + BitVec.ofNat 16 k).toNat →
    (retire i s t).staleAt (s.pc + BitVec.ofNat 16 k) =
      some (s.mem.read (s.pc + BitVec.ofNat 16 k).toNat)) ∧
  (∀ (s : State) (old : Byte), s.isMemory s.pc → s.staleAt s.pc = some old →
    fetchByte s = .ok (if Config.freeBit s.draws then old else s.mem.read s.pc.toNat,
      { s with pc := s.pc + 1, draws := s.draws + 1 })) ∧
  (∀ (s t : State) (e : StaleByte), e ∈ s.stale → step s = .next t →
    e ∈ t.stale ∨
    (∃ p, s.sampled.recognised = some p ∧ e.addr ∈ pushAddrs s.sp 5 ∧ s.isRam e.addr) ∨
    ∃ i u, fetchInstr (s.sampled.setInhibitNext false) = .ok (i, u) ∧
      (e.next = s.pc ∨ (e.addr - s.pc).toNat < (u.pc - s.pc).toNat ∨
        (e.addr ∈ storeAddrs i u ∧ s.isRam e.addr))) ∧
  (∀ (i : Instr) (s t : State) (a : Addr), exec i s = .next t → a ∈ storeAddrs i s → s.isRam a →
    (t.mem.read a.toNat = s.mem.read a.toNat ∨ nextLength s t ≤ (a - s.pc).toNat) →
    (retire i s t).staleAt a = none)

/-- R302, R303, R316: a recognised interrupt, in any of the three modes, is entered by the step: the frame with
PC, X, A and CCR on the stack in RAM, I set, Running, PC from the source's vector, H untouched, the request of a
self-clearing source gone (the model's form of the acknowledge hook, log 19), stale bytes under the frame settled
(the model's own, log 14). -/
def Obligations.InterruptEntryStacksAndVectors : Prop :=
  ∀ (s : State) (p : Config.IntSource),
    s.sampled.resetRequested = false → s.ccr.i = false → s.inhibitNext = false →
    highest s.sampled.candidates = some p →
    (∀ a ∈ pushAddrs s.sp 5, s.isRam a) → s.isMemory p.vector → s.isMemory (p.vector + 1) →
    ∃ t, step s = .next t ∧ t.mem = frameMemory s.pc s ∧ t.sp = s.sp - 5 ∧
      t.ccr = { s.ccr with i := true } ∧ t.mode = .running ∧ t.a = s.a ∧ t.x = s.x ∧ t.h = s.h ∧
      t.pc = word (t.mem.read p.vector.toNat) (t.mem.read (p.vector + 1).toNat) ∧
      t.pending = (if p.selfClearing then s.sampled.pending.filter (· ≠ p) else s.sampled.pending) ∧
      t.inhibitNext = false ∧ t.platform = s.platform ∧
      t.stale = s.staleOutside (pushAddrs s.sp 5)

/-- R303, R344: while I is set or the CLI delay holds, no request is taken: the step proceeds as without
interrupts and the delay ends; the requests stay pending. -/
def Obligations.MaskAndCliDelayHoldInterrupts : Prop :=
  ∀ s : State, s.sampled.resetRequested = false → (s.ccr.i = true ∨ s.inhibitNext = true) →
    step s = proceed { s.sampled with inhibitNext := false } ∧
    ∀ t, step s = .next t → t.pending = s.sampled.pending

/-- R208, R344: the instruction after CLI runs before any interrupt: a step from the state CLI leaves takes no
interrupt whatever is pending. -/
def Obligations.InstructionAfterCliRunsFirst : Prop :=
  ∀ (s t : State), exec .cli s = .next t → t.sampled.resetRequested = false →
    t.ccr.i = false ∧ step t = proceed { t.sampled with inhibitNext := false }

/-- R305, U12: the source taken is a candidate that no other candidate outranks: none has a higher priority, and
among equal priorities none a higher vector address. The tie rule is the default of U12 (log 18). -/
def Obligations.HighestPrioritySourceIsTaken : Prop :=
  ∀ (s : State) (p : Config.IntSource), s.recognised = some p →
    s.ccr.i = false ∧ s.inhibitNext = false ∧ p ∈ s.pending ∧ p ∈ s.platform.intSources ∧
    (s.mode = .stopped → p.wakesStop = true) ∧
    ∀ q ∈ s.candidates, q.priority < p.priority ∨
      (q.priority = p.priority ∧ q.vector.toNat ≤ p.vector.toNat)

/-- R316, R317: in WAIT with no request of the platform pending, and in STOP with none that wakes it, a step
changes nothing but the sampled inputs and the CLI delay. That a request outside the platform's list is ignored
is the model's choice (log 20, 39). -/
def Obligations.IdleModesHoldUntilARequest : Prop :=
  ∀ s : State, s.sampled.resetRequested = false →
    (s.mode = .waiting ∧ (∀ p ∈ s.sampled.pending, p ∉ s.platform.intSources) ∨
      s.mode = .stopped ∧ (∀ p ∈ s.sampled.pending, p ∈ s.platform.intSources → p.wakesStop = false)) →
    step s = .next { s.sampled with inhibitNext := false }

/-- R340: a requested reset overrides everything: H, SP, I, mode, inhibit_next and PC take their reset values;
A, X, the other flags, memory, the requests and the inputs as sampled are not written, nothing is stacked. What
the model adds of its own are a free number of cycles and its draw (log 28); that the requests and the open bytes
stay is its choice (log 14, 17). -/
def Obligations.ResetStepWritesOnlyItsRegisters : Prop :=
  ∀ s : State, s.sampled.resetRequested = true → s.isMemory 0xFFFE → s.isMemory 0xFFFF →
    ∃ t, step s = .next t ∧ t.h = 0x00 ∧ t.sp = 0x00FF ∧ t.ccr = { s.ccr with i := true } ∧
      t.mode = .running ∧ t.inhibitNext = false ∧
      t.pc = word (s.mem.read 0xFFFE) (s.mem.read 0xFFFF) ∧
      t.a = s.a ∧ t.x = s.x ∧ t.mem = s.mem ∧ t.platform = s.platform ∧
      t.pending = s.sampled.pending ∧ t.irqPin = s.sampled.irqPin ∧
      t.resetRequested = s.sampled.resetRequested ∧ t.inputs = s.sampled.inputs ∧ t.stale = s.stale ∧
      t.cycles = s.cycles + Config.freeCycles s.sampled.draws ∧ t.draws = s.sampled.draws + 1

/-- R38: what the spec states of the state after reset. (A, X, the other flags and the memory have no stated
value: log 1, 2.) -/
def Obligations.ResetStateIsAsStated : Prop :=
  State.reset.h = 0x00 ∧ State.reset.sp = 0x00FF ∧ State.reset.ccr.i = true ∧
  State.reset.mode = .running ∧ State.reset.inhibitNext = false ∧
  State.reset.pc = word (State.reset.mem.read 0xFFFE) (State.reset.mem.read 0xFFFF) ∧
  State.reset.ccr.toByte.getLsbD 6 = true ∧ State.reset.ccr.toByte.getLsbD 5 = true

/-- The state after reset, with the model's own reset values (log 1, 14, 17), meets the invariant of the next
statement. -/
def Obligations.ResetMeetsTheInvariant : Prop := State.reset.Inv

/-- R317, R36, R37: every step keeps the invariant: memory in canonical form, the mask clear and no CLI delay in
WAIT and STOP, requests distinct and of the platform, stale bytes close to their PCnext, different from memory and
none twice. The clauses on requests and stale bytes are about the model's own form of them (log 14, 20). -/
def Obligations.EveryStepKeepsTheInvariant : Prop :=
  ∀ s t : State, s.Inv → step s = .next t → t.Inv

/-- R6, the model's form of its arguments and draws (log 3, 8, 28): no step changes the platform, takes back a
draw or lowers the cycle count. -/
def Obligations.StepsKeepPlatformAndDraws : Prop :=
  ∀ s t : State, step s = .next t →
    t.platform = s.platform ∧ s.draws ≤ t.draws ∧ s.cycles ≤ t.cycles

/-- R352: an instruction that a step runs adds its bus cycles to the model's ghost counter (log 28), and they are
the figures of R352's table, group by group and form by form. -/
def Obligations.InstructionsAddTheirBusCycles : Prop :=
  (∀ (s t u v : State) (i : Instr), step s = .next t →
    s.sampled.resetRequested = false → s.sampled.recognised = none → s.mode = .running →
    fetchInstr (s.sampled.setInhibitNext false) = .ok (i, u) → exec i u = .next v →
    t.cycles = s.cycles + cycles i) ∧
  (∀ f ∈ ([.lda, .ldx, .add, .adc, .sub, .sbc, .cmp, .cpx, .and, .ora, .eor, .bit] : List (Src → Instr)),
    ∀ (b : Byte) (w : Addr), cycles (f (.imm b)) = 2 ∧ cycles (f (.mem (.dir b))) = 3 ∧
      cycles (f (.mem (.ext w))) = 4 ∧ cycles (f (.mem (.ix2 w))) = 4 ∧ cycles (f (.mem (.ix1 b))) = 3 ∧
      cycles (f (.mem .ix)) = 2 ∧ cycles (f (.mem (.sp1 b))) = 4 ∧ cycles (f (.mem (.sp2 w))) = 5) ∧
  (∀ f ∈ ([.sta, .stx] : List (MemMode → Instr)), ∀ (b : Byte) (w : Addr),
    cycles (f (.dir b)) = 3 ∧ cycles (f (.ext w)) = 4 ∧ cycles (f (.ix2 w)) = 4 ∧ cycles (f (.ix1 b)) = 3 ∧
      cycles (f .ix) = 2 ∧ cycles (f (.sp1 b)) = 4 ∧ cycles (f (.sp2 w)) = 5) ∧
  (∀ f ∈ ([.inc, .dec, .com, .neg, .asl, .asr, .lsl, .lsr, .rol, .ror] : List (RmwMode → Instr)), ∀ b : Byte,
    cycles (f (.dir b)) = 4 ∧ cycles (f (.ix1 b)) = 4 ∧ cycles (f .ix) = 3 ∧ cycles (f (.sp1 b)) = 5) ∧
  (∀ f ∈ ([.clr, .tst] : List (RmwMode → Instr)), ∀ b : Byte,
    cycles (f (.dir b)) = 3 ∧ cycles (f (.ix1 b)) = 3 ∧ cycles (f .ix) = 2 ∧ cycles (f (.sp1 b)) = 4) ∧
  (∀ i ∈ ([.inca, .incx, .deca, .decx, .coma, .comx, .nega, .negx, .asla, .aslx, .asra, .asrx, .lsla, .lslx,
      .lsra, .lsrx, .rola, .rolx, .rora, .rorx, .clra, .clrx, .clrh, .tsta, .tstx, .tpa, .tax, .txa, .clc,
      .sec, .rsp, .nop, .stop, .wait] : List Instr), cycles i = 1) ∧
  (∀ i ∈ ([.psha, .pshh, .pshx, .pula, .pulh, .pulx, .tap, .txs, .tsx, .cli, .sei, .daa] : List Instr),
    cycles i = 2) ∧
  (∀ (b c : Byte) (w : Addr),
    cycles (.ldhx (.imm w)) = 3 ∧ cycles (.ldhx (.dir b)) = 4 ∧ cycles (.sthx b) = 4 ∧
    cycles (.cphx (.imm w)) = 3 ∧ cycles (.cphx (.dir b)) = 4 ∧ cycles (.mov (.dd b c)) = 5 ∧
    cycles (.mov (.dixPlus b)) = 4 ∧ cycles (.mov (.imd b c)) = 4 ∧ cycles (.mov (.ixPlusD b)) = 4 ∧
    cycles (.ais b) = 2 ∧ cycles (.aix b) = 2) ∧
  (cycles .mul = 5 ∧ cycles .div = 7 ∧ cycles .nsa = 3 ∧ cycles .rts = 4 ∧ cycles .swi = 9 ∧ cycles .rti = 7) ∧
  (∀ (n : BitNum) (b c : Byte), cycles (.bset n b) = 4 ∧ cycles (.bclr n b) = 4 ∧
    cycles (.brset n b c) = 5 ∧ cycles (.brclr n b c) = 5) ∧
  (∀ f ∈ ([.bcc, .bcs, .bhcc, .bhcs, .bhi, .bhs, .blo, .bls, .bpl, .bmi, .beq, .bne, .bge, .bgt, .ble, .blt,
      .bih, .bil, .bmc, .bms, .bra, .brn] : List (Byte → Instr)), ∀ rr : Byte, cycles (f rr) = 3) ∧
  (∀ b rr : Byte, cycles (.cbeq (.dir b) rr) = 5 ∧ cycles (.cbeqa b rr) = 4 ∧ cycles (.cbeqx b rr) = 4 ∧
    cycles (.cbeq .ixPlus rr) = 4 ∧ cycles (.cbeq (.ix1Plus b) rr) = 5 ∧ cycles (.cbeq (.sp1 b) rr) = 6 ∧
    cycles (.dbnz (.dir b) rr) = 5 ∧ cycles (.dbnza rr) = 3 ∧ cycles (.dbnzx rr) = 3 ∧
    cycles (.dbnz .ix rr) = 4 ∧ cycles (.dbnz (.ix1 b) rr) = 5 ∧ cycles (.dbnz (.sp1 b) rr) = 6) ∧
  (∀ (b : Byte) (w : Addr),
    cycles (.jmp (.dir b)) = 2 ∧ cycles (.jmp (.ext w)) = 3 ∧ cycles (.jmp (.ix2 w)) = 4 ∧
    cycles (.jmp (.ix1 b)) = 3 ∧ cycles (.jmp .ix) = 2 ∧ cycles (.jsr (.dir b)) = 4 ∧
    cycles (.jsr (.ext w)) = 5 ∧ cycles (.jsr (.ix2 w)) = 6 ∧ cycles (.jsr (.ix1 b)) = 5 ∧
    cycles (.jsr .ix) = 4 ∧ cycles (.bsr b) = 4)
end

