-- ==== Sys2Proof/Laws/Bits.lean ====
section
/-! SUPPORT. Words and flags as numbers: what the slices, the concatenation, the extensions and the
flag helpers are, in the arithmetic the statements are written in. -/

namespace Sys2Proof.Machine

/-! ## Words -/

theorem word_toNat (h l : Byte) : (word h l).toNat = h.toNat * 256 + l.toNat := by
  rw [word, BitVec.toNat_append, ← Nat.shiftLeft_add_eq_or_of_lt l.isLt, Nat.shiftLeft_eq]

theorem hiByte_toNat (w : Addr) : (hiByte w).toNat = w.toNat / 256 := by
  have := w.isLt
  simp [hiByte, Nat.shiftRight_eq_div_pow]; omega

theorem loByte_toNat (w : Addr) : (loByte w).toNat = w.toNat % 256 := by simp [loByte]

theorem hiByte_eq (w : Addr) : hiByte w = BitVec.ofNat 8 (w.toNat / 256) := by
  apply BitVec.eq_of_toNat_eq
  have := w.isLt
  rw [hiByte_toNat]; simp; omega

theorem loByte_eq (w : Addr) : loByte w = BitVec.ofNat 8 w.toNat := by
  apply BitVec.eq_of_toNat_eq
  rw [loByte_toNat]; simp

theorem word_eq (h l : Byte) : word h l = BitVec.ofNat 16 (h.toNat * 256 + l.toNat) := by
  apply BitVec.eq_of_toNat_eq
  have := h.isLt; have := l.isLt
  rw [word_toNat]; simp; omega

@[simp] theorem hiByte_word (h l : Byte) : hiByte (word h l) = h := by
  apply BitVec.eq_of_toNat_eq
  have := l.isLt
  rw [hiByte_toNat, word_toNat]; omega

@[simp] theorem loByte_word (h l : Byte) : loByte (word h l) = l := by
  apply BitVec.eq_of_toNat_eq
  have := l.isLt
  rw [loByte_toNat, word_toNat]; omega

@[simp] theorem word_hiByte_loByte (w : Addr) : word (hiByte w) (loByte w) = w := by
  apply BitVec.eq_of_toNat_eq
  rw [word_toNat, hiByte_toNat, loByte_toNat]; omega

theorem directAddr_toNat (dd : Byte) : (directAddr dd).toNat = dd.toNat := by simp [directAddr, word_toNat]

theorem zext16_toNat (b : Byte) : (zext16 b).toNat = b.toNat := by
  have := b.isLt
  simp [zext16]; omega

/-- Adding a sign-extended byte adds its signed value. -/
theorem add_sext16 (w : Addr) (b : Byte) : w + sext16 b = BitVec.ofInt 16 (w.toNat + b.toInt) := by
  rw [BitVec.ofInt_add, sext16, BitVec.ofInt_natCast, BitVec.ofNat_toNat, BitVec.setWidth_eq]
  rfl

theorem hx_toNat (s : State) : s.hx.toNat = s.h.toNat * 256 + s.x.toNat := word_toNat _ _

/-! ## Flags -/

/-- The CCR byte holds all six flags (R34). -/
@[simp] theorem ofByte_toByte (f : Ccr) : Ccr.ofByte f.toByte = f := by
  obtain ⟨v, hc, i, n, z, c⟩ := f
  revert v hc i n z c; decide

theorem moved8_eq (f : Ccr) (r : Byte) : f.moved8 r = flagsOfByte f r.toNat := by
  simp only [Ccr.moved8, Ccr.nz8, flagsOfByte, Ccr.mk.injEq, true_and, and_true]
  constructor
  · rw [BitVec.msb_eq_decide]
  · rw [Bool.eq_iff_iff]; simp [← BitVec.toNat_inj]

theorem moved16_eq (f : Ccr) (r : Addr) : f.moved16 r = flagsOfWord f r.toNat := by
  simp only [Ccr.moved16, Ccr.nz16, flagsOfWord, Ccr.mk.injEq, true_and, and_true]
  constructor
  · rw [BitVec.msb_eq_decide]
  · rw [Bool.eq_iff_iff]; simp [← BitVec.toNat_inj]

/-! ## The flag computations -/

/-- A signed byte by its sign bit. -/
theorem toInt_cases (b : Byte) :
    (b.msb = false ∧ b.toInt = b.toNat ∧ b.toNat < 128) ∨
    (b.msb = true ∧ b.toInt = b.toNat - 256 ∧ 128 ≤ b.toNat ∧ b.toNat < 256) := by
  have := b.isLt
  rw [BitVec.msb_eq_decide, BitVec.toInt_eq_toNat_cond]
  by_cases h : 128 ≤ b.toNat <;> simp [h] <;> omega

/-- A signed word by its sign bit. -/
theorem toInt_cases16 (b : Addr) :
    (b.msb = false ∧ b.toInt = b.toNat ∧ b.toNat < 32768) ∨
    (b.msb = true ∧ b.toInt = b.toNat - 65536 ∧ 32768 ≤ b.toNat ∧ b.toNat < 65536) := by
  have := b.isLt
  rw [BitVec.msb_eq_decide, BitVec.toInt_eq_toNat_cond]
  by_cases h : 32768 ≤ b.toNat <;> simp [h] <;> omega

/-- ADD8 in exact arithmetic (R13). -/
theorem add8_eq (a m : Byte) (c : Bool) (f : Ccr) :
    add8 a m c f = (BitVec.ofNat 8 (a.toNat + m.toNat + bitValue c),
      flagsOfSum f (a.toNat + m.toNat + bitValue c) (a.toNat % 16 + m.toNat % 16 + bitValue c)
        (a.toInt + m.toInt + bitValue c)) := by
  have hc : c.toNat = bitValue c ∧ bitValue c < 2 := by cases c <;> decide
  simp only [add8, flagsOfSum, hc.1, Prod.mk.injEq, true_and, Ccr.mk.injEq, Ccr.nz8]
  obtain ⟨_, hc⟩ := hc
  generalize bitValue c = k at *
  have hr := toInt_cases (BitVec.ofNat 8 (a.toNat + m.toNat + k))
  have ha := toInt_cases a
  have hm := toInt_cases m
  have hv : (BitVec.ofNat 8 (a.toNat + m.toNat + k)).toNat = (a.toNat + m.toNat + k) % 256 := by simp
  generalize hrr : BitVec.ofNat 8 (a.toNat + m.toNat + k) = r at *
  refine ⟨?_, ?_, ?_⟩
  · rcases hr with h | h <;> rcases ha with h1 | h1 <;> rcases hm with h2 | h2 <;> rw [h.1, h1.1, h2.1] <;> simp <;> omega
  · rw [BitVec.msb_eq_decide, hv]
  · rw [Bool.eq_iff_iff]; simp [← BitVec.toNat_inj, hv]

/-- SUB8 in exact arithmetic (R14). -/
theorem sub8_eq (a m : Byte) (c : Bool) (f : Ccr) :
    sub8 a m c f = (BitVec.ofInt 8 ((a.toNat : Int) - m.toNat - bitValue c),
      flagsOfDifference f 256 ((a.toNat : Int) - m.toNat - bitValue c) (a.toInt - m.toInt - bitValue c)) := by
  have hc : c.toNat = bitValue c ∧ bitValue c < 2 := by cases c <;> decide
  simp only [sub8, flagsOfDifference, hc.1, Prod.mk.injEq, true_and, Ccr.mk.injEq, Ccr.nz8]
  obtain ⟨_, hc⟩ := hc
  generalize bitValue c = k at *
  have hr := toInt_cases (BitVec.ofInt 8 ((a.toNat : Int) - m.toNat - k))
  have ha := toInt_cases a
  have hm := toInt_cases m
  have hv : ((BitVec.ofInt 8 ((a.toNat : Int) - m.toNat - k)).toNat : Int) = ((a.toNat : Int) - m.toNat - k) % 256 := by simp; omega
  generalize hrr : BitVec.ofInt 8 ((a.toNat : Int) - m.toNat - k) = r at *
  refine ⟨?_, ?_, ?_⟩
  · rcases hr with h | h <;> rcases ha with h1 | h1 <;> rcases hm with h2 | h2 <;> rw [h.1, h1.1, h2.1] <;> simp <;> omega
  · rw [BitVec.msb_eq_decide, Bool.eq_iff_iff]; simp; omega
  · rw [Bool.eq_iff_iff]; simp [← BitVec.toNat_inj]; omega

/-- SUB16 in exact arithmetic (R14). -/
theorem sub16_eq (a m : Addr) (f : Ccr) :
    sub16 a m f = (BitVec.ofInt 16 ((a.toNat : Int) - m.toNat),
      flagsOfDifference f 65536 ((a.toNat : Int) - m.toNat) (a.toInt - m.toInt)) := by
  simp only [sub16, flagsOfDifference, Prod.mk.injEq, true_and, Ccr.mk.injEq, Ccr.nz16]
  have hr := toInt_cases16 (BitVec.ofInt 16 ((a.toNat : Int) - m.toNat))
  have ha := toInt_cases16 a
  have hm := toInt_cases16 m
  have hv : ((BitVec.ofInt 16 ((a.toNat : Int) - m.toNat)).toNat : Int) = ((a.toNat : Int) - m.toNat) % 65536 := by simp; omega
  generalize hrr : BitVec.ofInt 16 ((a.toNat : Int) - m.toNat) = r at *
  refine ⟨?_, ?_, ?_⟩
  · rcases hr with h | h <;> rcases ha with h1 | h1 <;> rcases hm with h2 | h2 <;> rw [h.1, h1.1, h2.1] <;> simp <;> omega
  · rw [BitVec.msb_eq_decide, Bool.eq_iff_iff]; simp; omega
  · rw [Bool.eq_iff_iff]; simp [← BitVec.toNat_inj]; omega

end Sys2Proof.Machine
end

