-- ==== Sys2Proof/Laws/State.lean ====
section
/-! SUPPORT. One lemma for each field after each update of State: every field but the one set keeps
its value. -/

namespace Sys2Proof.Machine

@[simp] theorem State.setA_a (s : State) (v : Byte) : (s.setA v).a = v := rfl
@[simp] theorem State.setA_x (s : State) (v : Byte) : (s.setA v).x = s.x := rfl
@[simp] theorem State.setA_h (s : State) (v : Byte) : (s.setA v).h = s.h := rfl
@[simp] theorem State.setA_sp (s : State) (v : Byte) : (s.setA v).sp = s.sp := rfl
@[simp] theorem State.setA_pc (s : State) (v : Byte) : (s.setA v).pc = s.pc := rfl
@[simp] theorem State.setA_ccr (s : State) (v : Byte) : (s.setA v).ccr = s.ccr := rfl
@[simp] theorem State.setA_mem (s : State) (v : Byte) : (s.setA v).mem = s.mem := rfl
@[simp] theorem State.setA_mode (s : State) (v : Byte) : (s.setA v).mode = s.mode := rfl
@[simp] theorem State.setA_inhibitNext (s : State) (v : Byte) : (s.setA v).inhibitNext = s.inhibitNext := rfl
@[simp] theorem State.setA_pending (s : State) (v : Byte) : (s.setA v).pending = s.pending := rfl
@[simp] theorem State.setA_irqPin (s : State) (v : Byte) : (s.setA v).irqPin = s.irqPin := rfl
@[simp] theorem State.setA_resetRequested (s : State) (v : Byte) : (s.setA v).resetRequested = s.resetRequested := rfl
@[simp] theorem State.setA_platform (s : State) (v : Byte) : (s.setA v).platform = s.platform := rfl
@[simp] theorem State.setA_inputs (s : State) (v : Byte) : (s.setA v).inputs = s.inputs := rfl
@[simp] theorem State.setA_draws (s : State) (v : Byte) : (s.setA v).draws = s.draws := rfl
@[simp] theorem State.setA_stale (s : State) (v : Byte) : (s.setA v).stale = s.stale := rfl
@[simp] theorem State.setA_cycles (s : State) (v : Byte) : (s.setA v).cycles = s.cycles := rfl

@[simp] theorem State.setX_a (s : State) (v : Byte) : (s.setX v).a = s.a := rfl
@[simp] theorem State.setX_x (s : State) (v : Byte) : (s.setX v).x = v := rfl
@[simp] theorem State.setX_h (s : State) (v : Byte) : (s.setX v).h = s.h := rfl
@[simp] theorem State.setX_sp (s : State) (v : Byte) : (s.setX v).sp = s.sp := rfl
@[simp] theorem State.setX_pc (s : State) (v : Byte) : (s.setX v).pc = s.pc := rfl
@[simp] theorem State.setX_ccr (s : State) (v : Byte) : (s.setX v).ccr = s.ccr := rfl
@[simp] theorem State.setX_mem (s : State) (v : Byte) : (s.setX v).mem = s.mem := rfl
@[simp] theorem State.setX_mode (s : State) (v : Byte) : (s.setX v).mode = s.mode := rfl
@[simp] theorem State.setX_inhibitNext (s : State) (v : Byte) : (s.setX v).inhibitNext = s.inhibitNext := rfl
@[simp] theorem State.setX_pending (s : State) (v : Byte) : (s.setX v).pending = s.pending := rfl
@[simp] theorem State.setX_irqPin (s : State) (v : Byte) : (s.setX v).irqPin = s.irqPin := rfl
@[simp] theorem State.setX_resetRequested (s : State) (v : Byte) : (s.setX v).resetRequested = s.resetRequested := rfl
@[simp] theorem State.setX_platform (s : State) (v : Byte) : (s.setX v).platform = s.platform := rfl
@[simp] theorem State.setX_inputs (s : State) (v : Byte) : (s.setX v).inputs = s.inputs := rfl
@[simp] theorem State.setX_draws (s : State) (v : Byte) : (s.setX v).draws = s.draws := rfl
@[simp] theorem State.setX_stale (s : State) (v : Byte) : (s.setX v).stale = s.stale := rfl
@[simp] theorem State.setX_cycles (s : State) (v : Byte) : (s.setX v).cycles = s.cycles := rfl

@[simp] theorem State.setH_a (s : State) (v : Byte) : (s.setH v).a = s.a := rfl
@[simp] theorem State.setH_x (s : State) (v : Byte) : (s.setH v).x = s.x := rfl
@[simp] theorem State.setH_h (s : State) (v : Byte) : (s.setH v).h = v := rfl
@[simp] theorem State.setH_sp (s : State) (v : Byte) : (s.setH v).sp = s.sp := rfl
@[simp] theorem State.setH_pc (s : State) (v : Byte) : (s.setH v).pc = s.pc := rfl
@[simp] theorem State.setH_ccr (s : State) (v : Byte) : (s.setH v).ccr = s.ccr := rfl
@[simp] theorem State.setH_mem (s : State) (v : Byte) : (s.setH v).mem = s.mem := rfl
@[simp] theorem State.setH_mode (s : State) (v : Byte) : (s.setH v).mode = s.mode := rfl
@[simp] theorem State.setH_inhibitNext (s : State) (v : Byte) : (s.setH v).inhibitNext = s.inhibitNext := rfl
@[simp] theorem State.setH_pending (s : State) (v : Byte) : (s.setH v).pending = s.pending := rfl
@[simp] theorem State.setH_irqPin (s : State) (v : Byte) : (s.setH v).irqPin = s.irqPin := rfl
@[simp] theorem State.setH_resetRequested (s : State) (v : Byte) : (s.setH v).resetRequested = s.resetRequested := rfl
@[simp] theorem State.setH_platform (s : State) (v : Byte) : (s.setH v).platform = s.platform := rfl
@[simp] theorem State.setH_inputs (s : State) (v : Byte) : (s.setH v).inputs = s.inputs := rfl
@[simp] theorem State.setH_draws (s : State) (v : Byte) : (s.setH v).draws = s.draws := rfl
@[simp] theorem State.setH_stale (s : State) (v : Byte) : (s.setH v).stale = s.stale := rfl
@[simp] theorem State.setH_cycles (s : State) (v : Byte) : (s.setH v).cycles = s.cycles := rfl

@[simp] theorem State.setSp_a (s : State) (v : Addr) : (s.setSp v).a = s.a := rfl
@[simp] theorem State.setSp_x (s : State) (v : Addr) : (s.setSp v).x = s.x := rfl
@[simp] theorem State.setSp_h (s : State) (v : Addr) : (s.setSp v).h = s.h := rfl
@[simp] theorem State.setSp_sp (s : State) (v : Addr) : (s.setSp v).sp = v := rfl
@[simp] theorem State.setSp_pc (s : State) (v : Addr) : (s.setSp v).pc = s.pc := rfl
@[simp] theorem State.setSp_ccr (s : State) (v : Addr) : (s.setSp v).ccr = s.ccr := rfl
@[simp] theorem State.setSp_mem (s : State) (v : Addr) : (s.setSp v).mem = s.mem := rfl
@[simp] theorem State.setSp_mode (s : State) (v : Addr) : (s.setSp v).mode = s.mode := rfl
@[simp] theorem State.setSp_inhibitNext (s : State) (v : Addr) : (s.setSp v).inhibitNext = s.inhibitNext := rfl
@[simp] theorem State.setSp_pending (s : State) (v : Addr) : (s.setSp v).pending = s.pending := rfl
@[simp] theorem State.setSp_irqPin (s : State) (v : Addr) : (s.setSp v).irqPin = s.irqPin := rfl
@[simp] theorem State.setSp_resetRequested (s : State) (v : Addr) : (s.setSp v).resetRequested = s.resetRequested := rfl
@[simp] theorem State.setSp_platform (s : State) (v : Addr) : (s.setSp v).platform = s.platform := rfl
@[simp] theorem State.setSp_inputs (s : State) (v : Addr) : (s.setSp v).inputs = s.inputs := rfl
@[simp] theorem State.setSp_draws (s : State) (v : Addr) : (s.setSp v).draws = s.draws := rfl
@[simp] theorem State.setSp_stale (s : State) (v : Addr) : (s.setSp v).stale = s.stale := rfl
@[simp] theorem State.setSp_cycles (s : State) (v : Addr) : (s.setSp v).cycles = s.cycles := rfl

@[simp] theorem State.setPc_a (s : State) (v : Addr) : (s.setPc v).a = s.a := rfl
@[simp] theorem State.setPc_x (s : State) (v : Addr) : (s.setPc v).x = s.x := rfl
@[simp] theorem State.setPc_h (s : State) (v : Addr) : (s.setPc v).h = s.h := rfl
@[simp] theorem State.setPc_sp (s : State) (v : Addr) : (s.setPc v).sp = s.sp := rfl
@[simp] theorem State.setPc_pc (s : State) (v : Addr) : (s.setPc v).pc = v := rfl
@[simp] theorem State.setPc_ccr (s : State) (v : Addr) : (s.setPc v).ccr = s.ccr := rfl
@[simp] theorem State.setPc_mem (s : State) (v : Addr) : (s.setPc v).mem = s.mem := rfl
@[simp] theorem State.setPc_mode (s : State) (v : Addr) : (s.setPc v).mode = s.mode := rfl
@[simp] theorem State.setPc_inhibitNext (s : State) (v : Addr) : (s.setPc v).inhibitNext = s.inhibitNext := rfl
@[simp] theorem State.setPc_pending (s : State) (v : Addr) : (s.setPc v).pending = s.pending := rfl
@[simp] theorem State.setPc_irqPin (s : State) (v : Addr) : (s.setPc v).irqPin = s.irqPin := rfl
@[simp] theorem State.setPc_resetRequested (s : State) (v : Addr) : (s.setPc v).resetRequested = s.resetRequested := rfl
@[simp] theorem State.setPc_platform (s : State) (v : Addr) : (s.setPc v).platform = s.platform := rfl
@[simp] theorem State.setPc_inputs (s : State) (v : Addr) : (s.setPc v).inputs = s.inputs := rfl
@[simp] theorem State.setPc_draws (s : State) (v : Addr) : (s.setPc v).draws = s.draws := rfl
@[simp] theorem State.setPc_stale (s : State) (v : Addr) : (s.setPc v).stale = s.stale := rfl
@[simp] theorem State.setPc_cycles (s : State) (v : Addr) : (s.setPc v).cycles = s.cycles := rfl

@[simp] theorem State.setCcr_a (s : State) (v : Ccr) : (s.setCcr v).a = s.a := rfl
@[simp] theorem State.setCcr_x (s : State) (v : Ccr) : (s.setCcr v).x = s.x := rfl
@[simp] theorem State.setCcr_h (s : State) (v : Ccr) : (s.setCcr v).h = s.h := rfl
@[simp] theorem State.setCcr_sp (s : State) (v : Ccr) : (s.setCcr v).sp = s.sp := rfl
@[simp] theorem State.setCcr_pc (s : State) (v : Ccr) : (s.setCcr v).pc = s.pc := rfl
@[simp] theorem State.setCcr_ccr (s : State) (v : Ccr) : (s.setCcr v).ccr = v := rfl
@[simp] theorem State.setCcr_mem (s : State) (v : Ccr) : (s.setCcr v).mem = s.mem := rfl
@[simp] theorem State.setCcr_mode (s : State) (v : Ccr) : (s.setCcr v).mode = s.mode := rfl
@[simp] theorem State.setCcr_inhibitNext (s : State) (v : Ccr) : (s.setCcr v).inhibitNext = s.inhibitNext := rfl
@[simp] theorem State.setCcr_pending (s : State) (v : Ccr) : (s.setCcr v).pending = s.pending := rfl
@[simp] theorem State.setCcr_irqPin (s : State) (v : Ccr) : (s.setCcr v).irqPin = s.irqPin := rfl
@[simp] theorem State.setCcr_resetRequested (s : State) (v : Ccr) : (s.setCcr v).resetRequested = s.resetRequested := rfl
@[simp] theorem State.setCcr_platform (s : State) (v : Ccr) : (s.setCcr v).platform = s.platform := rfl
@[simp] theorem State.setCcr_inputs (s : State) (v : Ccr) : (s.setCcr v).inputs = s.inputs := rfl
@[simp] theorem State.setCcr_draws (s : State) (v : Ccr) : (s.setCcr v).draws = s.draws := rfl
@[simp] theorem State.setCcr_stale (s : State) (v : Ccr) : (s.setCcr v).stale = s.stale := rfl
@[simp] theorem State.setCcr_cycles (s : State) (v : Ccr) : (s.setCcr v).cycles = s.cycles := rfl

@[simp] theorem State.setMem_a (s : State) (v : Memory) : (s.setMem v).a = s.a := rfl
@[simp] theorem State.setMem_x (s : State) (v : Memory) : (s.setMem v).x = s.x := rfl
@[simp] theorem State.setMem_h (s : State) (v : Memory) : (s.setMem v).h = s.h := rfl
@[simp] theorem State.setMem_sp (s : State) (v : Memory) : (s.setMem v).sp = s.sp := rfl
@[simp] theorem State.setMem_pc (s : State) (v : Memory) : (s.setMem v).pc = s.pc := rfl
@[simp] theorem State.setMem_ccr (s : State) (v : Memory) : (s.setMem v).ccr = s.ccr := rfl
@[simp] theorem State.setMem_mem (s : State) (v : Memory) : (s.setMem v).mem = v := rfl
@[simp] theorem State.setMem_mode (s : State) (v : Memory) : (s.setMem v).mode = s.mode := rfl
@[simp] theorem State.setMem_inhibitNext (s : State) (v : Memory) : (s.setMem v).inhibitNext = s.inhibitNext := rfl
@[simp] theorem State.setMem_pending (s : State) (v : Memory) : (s.setMem v).pending = s.pending := rfl
@[simp] theorem State.setMem_irqPin (s : State) (v : Memory) : (s.setMem v).irqPin = s.irqPin := rfl
@[simp] theorem State.setMem_resetRequested (s : State) (v : Memory) : (s.setMem v).resetRequested = s.resetRequested := rfl
@[simp] theorem State.setMem_platform (s : State) (v : Memory) : (s.setMem v).platform = s.platform := rfl
@[simp] theorem State.setMem_inputs (s : State) (v : Memory) : (s.setMem v).inputs = s.inputs := rfl
@[simp] theorem State.setMem_draws (s : State) (v : Memory) : (s.setMem v).draws = s.draws := rfl
@[simp] theorem State.setMem_stale (s : State) (v : Memory) : (s.setMem v).stale = s.stale := rfl
@[simp] theorem State.setMem_cycles (s : State) (v : Memory) : (s.setMem v).cycles = s.cycles := rfl

@[simp] theorem State.setMode_a (s : State) (v : RunMode) : (s.setMode v).a = s.a := rfl
@[simp] theorem State.setMode_x (s : State) (v : RunMode) : (s.setMode v).x = s.x := rfl
@[simp] theorem State.setMode_h (s : State) (v : RunMode) : (s.setMode v).h = s.h := rfl
@[simp] theorem State.setMode_sp (s : State) (v : RunMode) : (s.setMode v).sp = s.sp := rfl
@[simp] theorem State.setMode_pc (s : State) (v : RunMode) : (s.setMode v).pc = s.pc := rfl
@[simp] theorem State.setMode_ccr (s : State) (v : RunMode) : (s.setMode v).ccr = s.ccr := rfl
@[simp] theorem State.setMode_mem (s : State) (v : RunMode) : (s.setMode v).mem = s.mem := rfl
@[simp] theorem State.setMode_mode (s : State) (v : RunMode) : (s.setMode v).mode = v := rfl
@[simp] theorem State.setMode_inhibitNext (s : State) (v : RunMode) : (s.setMode v).inhibitNext = s.inhibitNext := rfl
@[simp] theorem State.setMode_pending (s : State) (v : RunMode) : (s.setMode v).pending = s.pending := rfl
@[simp] theorem State.setMode_irqPin (s : State) (v : RunMode) : (s.setMode v).irqPin = s.irqPin := rfl
@[simp] theorem State.setMode_resetRequested (s : State) (v : RunMode) : (s.setMode v).resetRequested = s.resetRequested := rfl
@[simp] theorem State.setMode_platform (s : State) (v : RunMode) : (s.setMode v).platform = s.platform := rfl
@[simp] theorem State.setMode_inputs (s : State) (v : RunMode) : (s.setMode v).inputs = s.inputs := rfl
@[simp] theorem State.setMode_draws (s : State) (v : RunMode) : (s.setMode v).draws = s.draws := rfl
@[simp] theorem State.setMode_stale (s : State) (v : RunMode) : (s.setMode v).stale = s.stale := rfl
@[simp] theorem State.setMode_cycles (s : State) (v : RunMode) : (s.setMode v).cycles = s.cycles := rfl

@[simp] theorem State.setInhibitNext_a (s : State) (v : Bool) : (s.setInhibitNext v).a = s.a := rfl
@[simp] theorem State.setInhibitNext_x (s : State) (v : Bool) : (s.setInhibitNext v).x = s.x := rfl
@[simp] theorem State.setInhibitNext_h (s : State) (v : Bool) : (s.setInhibitNext v).h = s.h := rfl
@[simp] theorem State.setInhibitNext_sp (s : State) (v : Bool) : (s.setInhibitNext v).sp = s.sp := rfl
@[simp] theorem State.setInhibitNext_pc (s : State) (v : Bool) : (s.setInhibitNext v).pc = s.pc := rfl
@[simp] theorem State.setInhibitNext_ccr (s : State) (v : Bool) : (s.setInhibitNext v).ccr = s.ccr := rfl
@[simp] theorem State.setInhibitNext_mem (s : State) (v : Bool) : (s.setInhibitNext v).mem = s.mem := rfl
@[simp] theorem State.setInhibitNext_mode (s : State) (v : Bool) : (s.setInhibitNext v).mode = s.mode := rfl
@[simp] theorem State.setInhibitNext_inhibitNext (s : State) (v : Bool) : (s.setInhibitNext v).inhibitNext = v := rfl
@[simp] theorem State.setInhibitNext_pending (s : State) (v : Bool) : (s.setInhibitNext v).pending = s.pending := rfl
@[simp] theorem State.setInhibitNext_irqPin (s : State) (v : Bool) : (s.setInhibitNext v).irqPin = s.irqPin := rfl
@[simp] theorem State.setInhibitNext_resetRequested (s : State) (v : Bool) : (s.setInhibitNext v).resetRequested = s.resetRequested := rfl
@[simp] theorem State.setInhibitNext_platform (s : State) (v : Bool) : (s.setInhibitNext v).platform = s.platform := rfl
@[simp] theorem State.setInhibitNext_inputs (s : State) (v : Bool) : (s.setInhibitNext v).inputs = s.inputs := rfl
@[simp] theorem State.setInhibitNext_draws (s : State) (v : Bool) : (s.setInhibitNext v).draws = s.draws := rfl
@[simp] theorem State.setInhibitNext_stale (s : State) (v : Bool) : (s.setInhibitNext v).stale = s.stale := rfl
@[simp] theorem State.setInhibitNext_cycles (s : State) (v : Bool) : (s.setInhibitNext v).cycles = s.cycles := rfl

@[simp] theorem State.setPending_a (s : State) (v : List Config.IntSource) : (s.setPending v).a = s.a := rfl
@[simp] theorem State.setPending_x (s : State) (v : List Config.IntSource) : (s.setPending v).x = s.x := rfl
@[simp] theorem State.setPending_h (s : State) (v : List Config.IntSource) : (s.setPending v).h = s.h := rfl
@[simp] theorem State.setPending_sp (s : State) (v : List Config.IntSource) : (s.setPending v).sp = s.sp := rfl
@[simp] theorem State.setPending_pc (s : State) (v : List Config.IntSource) : (s.setPending v).pc = s.pc := rfl
@[simp] theorem State.setPending_ccr (s : State) (v : List Config.IntSource) : (s.setPending v).ccr = s.ccr := rfl
@[simp] theorem State.setPending_mem (s : State) (v : List Config.IntSource) : (s.setPending v).mem = s.mem := rfl
@[simp] theorem State.setPending_mode (s : State) (v : List Config.IntSource) : (s.setPending v).mode = s.mode := rfl
@[simp] theorem State.setPending_inhibitNext (s : State) (v : List Config.IntSource) : (s.setPending v).inhibitNext = s.inhibitNext := rfl
@[simp] theorem State.setPending_pending (s : State) (v : List Config.IntSource) : (s.setPending v).pending = v := rfl
@[simp] theorem State.setPending_irqPin (s : State) (v : List Config.IntSource) : (s.setPending v).irqPin = s.irqPin := rfl
@[simp] theorem State.setPending_resetRequested (s : State) (v : List Config.IntSource) : (s.setPending v).resetRequested = s.resetRequested := rfl
@[simp] theorem State.setPending_platform (s : State) (v : List Config.IntSource) : (s.setPending v).platform = s.platform := rfl
@[simp] theorem State.setPending_inputs (s : State) (v : List Config.IntSource) : (s.setPending v).inputs = s.inputs := rfl
@[simp] theorem State.setPending_draws (s : State) (v : List Config.IntSource) : (s.setPending v).draws = s.draws := rfl
@[simp] theorem State.setPending_stale (s : State) (v : List Config.IntSource) : (s.setPending v).stale = s.stale := rfl
@[simp] theorem State.setPending_cycles (s : State) (v : List Config.IntSource) : (s.setPending v).cycles = s.cycles := rfl

@[simp] theorem State.setIrqPin_a (s : State) (v : Bool) : (s.setIrqPin v).a = s.a := rfl
@[simp] theorem State.setIrqPin_x (s : State) (v : Bool) : (s.setIrqPin v).x = s.x := rfl
@[simp] theorem State.setIrqPin_h (s : State) (v : Bool) : (s.setIrqPin v).h = s.h := rfl
@[simp] theorem State.setIrqPin_sp (s : State) (v : Bool) : (s.setIrqPin v).sp = s.sp := rfl
@[simp] theorem State.setIrqPin_pc (s : State) (v : Bool) : (s.setIrqPin v).pc = s.pc := rfl
@[simp] theorem State.setIrqPin_ccr (s : State) (v : Bool) : (s.setIrqPin v).ccr = s.ccr := rfl
@[simp] theorem State.setIrqPin_mem (s : State) (v : Bool) : (s.setIrqPin v).mem = s.mem := rfl
@[simp] theorem State.setIrqPin_mode (s : State) (v : Bool) : (s.setIrqPin v).mode = s.mode := rfl
@[simp] theorem State.setIrqPin_inhibitNext (s : State) (v : Bool) : (s.setIrqPin v).inhibitNext = s.inhibitNext := rfl
@[simp] theorem State.setIrqPin_pending (s : State) (v : Bool) : (s.setIrqPin v).pending = s.pending := rfl
@[simp] theorem State.setIrqPin_irqPin (s : State) (v : Bool) : (s.setIrqPin v).irqPin = v := rfl
@[simp] theorem State.setIrqPin_resetRequested (s : State) (v : Bool) : (s.setIrqPin v).resetRequested = s.resetRequested := rfl
@[simp] theorem State.setIrqPin_platform (s : State) (v : Bool) : (s.setIrqPin v).platform = s.platform := rfl
@[simp] theorem State.setIrqPin_inputs (s : State) (v : Bool) : (s.setIrqPin v).inputs = s.inputs := rfl
@[simp] theorem State.setIrqPin_draws (s : State) (v : Bool) : (s.setIrqPin v).draws = s.draws := rfl
@[simp] theorem State.setIrqPin_stale (s : State) (v : Bool) : (s.setIrqPin v).stale = s.stale := rfl
@[simp] theorem State.setIrqPin_cycles (s : State) (v : Bool) : (s.setIrqPin v).cycles = s.cycles := rfl

@[simp] theorem State.setResetRequested_a (s : State) (v : Bool) : (s.setResetRequested v).a = s.a := rfl
@[simp] theorem State.setResetRequested_x (s : State) (v : Bool) : (s.setResetRequested v).x = s.x := rfl
@[simp] theorem State.setResetRequested_h (s : State) (v : Bool) : (s.setResetRequested v).h = s.h := rfl
@[simp] theorem State.setResetRequested_sp (s : State) (v : Bool) : (s.setResetRequested v).sp = s.sp := rfl
@[simp] theorem State.setResetRequested_pc (s : State) (v : Bool) : (s.setResetRequested v).pc = s.pc := rfl
@[simp] theorem State.setResetRequested_ccr (s : State) (v : Bool) : (s.setResetRequested v).ccr = s.ccr := rfl
@[simp] theorem State.setResetRequested_mem (s : State) (v : Bool) : (s.setResetRequested v).mem = s.mem := rfl
@[simp] theorem State.setResetRequested_mode (s : State) (v : Bool) : (s.setResetRequested v).mode = s.mode := rfl
@[simp] theorem State.setResetRequested_inhibitNext (s : State) (v : Bool) : (s.setResetRequested v).inhibitNext = s.inhibitNext := rfl
@[simp] theorem State.setResetRequested_pending (s : State) (v : Bool) : (s.setResetRequested v).pending = s.pending := rfl
@[simp] theorem State.setResetRequested_irqPin (s : State) (v : Bool) : (s.setResetRequested v).irqPin = s.irqPin := rfl
@[simp] theorem State.setResetRequested_resetRequested (s : State) (v : Bool) : (s.setResetRequested v).resetRequested = v := rfl
@[simp] theorem State.setResetRequested_platform (s : State) (v : Bool) : (s.setResetRequested v).platform = s.platform := rfl
@[simp] theorem State.setResetRequested_inputs (s : State) (v : Bool) : (s.setResetRequested v).inputs = s.inputs := rfl
@[simp] theorem State.setResetRequested_draws (s : State) (v : Bool) : (s.setResetRequested v).draws = s.draws := rfl
@[simp] theorem State.setResetRequested_stale (s : State) (v : Bool) : (s.setResetRequested v).stale = s.stale := rfl
@[simp] theorem State.setResetRequested_cycles (s : State) (v : Bool) : (s.setResetRequested v).cycles = s.cycles := rfl

@[simp] theorem State.setInputs_a (s : State) (v : List Config.EnvSample) : (s.setInputs v).a = s.a := rfl
@[simp] theorem State.setInputs_x (s : State) (v : List Config.EnvSample) : (s.setInputs v).x = s.x := rfl
@[simp] theorem State.setInputs_h (s : State) (v : List Config.EnvSample) : (s.setInputs v).h = s.h := rfl
@[simp] theorem State.setInputs_sp (s : State) (v : List Config.EnvSample) : (s.setInputs v).sp = s.sp := rfl
@[simp] theorem State.setInputs_pc (s : State) (v : List Config.EnvSample) : (s.setInputs v).pc = s.pc := rfl
@[simp] theorem State.setInputs_ccr (s : State) (v : List Config.EnvSample) : (s.setInputs v).ccr = s.ccr := rfl
@[simp] theorem State.setInputs_mem (s : State) (v : List Config.EnvSample) : (s.setInputs v).mem = s.mem := rfl
@[simp] theorem State.setInputs_mode (s : State) (v : List Config.EnvSample) : (s.setInputs v).mode = s.mode := rfl
@[simp] theorem State.setInputs_inhibitNext (s : State) (v : List Config.EnvSample) : (s.setInputs v).inhibitNext = s.inhibitNext := rfl
@[simp] theorem State.setInputs_pending (s : State) (v : List Config.EnvSample) : (s.setInputs v).pending = s.pending := rfl
@[simp] theorem State.setInputs_irqPin (s : State) (v : List Config.EnvSample) : (s.setInputs v).irqPin = s.irqPin := rfl
@[simp] theorem State.setInputs_resetRequested (s : State) (v : List Config.EnvSample) : (s.setInputs v).resetRequested = s.resetRequested := rfl
@[simp] theorem State.setInputs_platform (s : State) (v : List Config.EnvSample) : (s.setInputs v).platform = s.platform := rfl
@[simp] theorem State.setInputs_inputs (s : State) (v : List Config.EnvSample) : (s.setInputs v).inputs = v := rfl
@[simp] theorem State.setInputs_draws (s : State) (v : List Config.EnvSample) : (s.setInputs v).draws = s.draws := rfl
@[simp] theorem State.setInputs_stale (s : State) (v : List Config.EnvSample) : (s.setInputs v).stale = s.stale := rfl
@[simp] theorem State.setInputs_cycles (s : State) (v : List Config.EnvSample) : (s.setInputs v).cycles = s.cycles := rfl

@[simp] theorem State.setDraws_a (s : State) (v : Nat) : (s.setDraws v).a = s.a := rfl
@[simp] theorem State.setDraws_x (s : State) (v : Nat) : (s.setDraws v).x = s.x := rfl
@[simp] theorem State.setDraws_h (s : State) (v : Nat) : (s.setDraws v).h = s.h := rfl
@[simp] theorem State.setDraws_sp (s : State) (v : Nat) : (s.setDraws v).sp = s.sp := rfl
@[simp] theorem State.setDraws_pc (s : State) (v : Nat) : (s.setDraws v).pc = s.pc := rfl
@[simp] theorem State.setDraws_ccr (s : State) (v : Nat) : (s.setDraws v).ccr = s.ccr := rfl
@[simp] theorem State.setDraws_mem (s : State) (v : Nat) : (s.setDraws v).mem = s.mem := rfl
@[simp] theorem State.setDraws_mode (s : State) (v : Nat) : (s.setDraws v).mode = s.mode := rfl
@[simp] theorem State.setDraws_inhibitNext (s : State) (v : Nat) : (s.setDraws v).inhibitNext = s.inhibitNext := rfl
@[simp] theorem State.setDraws_pending (s : State) (v : Nat) : (s.setDraws v).pending = s.pending := rfl
@[simp] theorem State.setDraws_irqPin (s : State) (v : Nat) : (s.setDraws v).irqPin = s.irqPin := rfl
@[simp] theorem State.setDraws_resetRequested (s : State) (v : Nat) : (s.setDraws v).resetRequested = s.resetRequested := rfl
@[simp] theorem State.setDraws_platform (s : State) (v : Nat) : (s.setDraws v).platform = s.platform := rfl
@[simp] theorem State.setDraws_inputs (s : State) (v : Nat) : (s.setDraws v).inputs = s.inputs := rfl
@[simp] theorem State.setDraws_draws (s : State) (v : Nat) : (s.setDraws v).draws = v := rfl
@[simp] theorem State.setDraws_stale (s : State) (v : Nat) : (s.setDraws v).stale = s.stale := rfl
@[simp] theorem State.setDraws_cycles (s : State) (v : Nat) : (s.setDraws v).cycles = s.cycles := rfl

@[simp] theorem State.setStale_a (s : State) (v : List StaleByte) : (s.setStale v).a = s.a := rfl
@[simp] theorem State.setStale_x (s : State) (v : List StaleByte) : (s.setStale v).x = s.x := rfl
@[simp] theorem State.setStale_h (s : State) (v : List StaleByte) : (s.setStale v).h = s.h := rfl
@[simp] theorem State.setStale_sp (s : State) (v : List StaleByte) : (s.setStale v).sp = s.sp := rfl
@[simp] theorem State.setStale_pc (s : State) (v : List StaleByte) : (s.setStale v).pc = s.pc := rfl
@[simp] theorem State.setStale_ccr (s : State) (v : List StaleByte) : (s.setStale v).ccr = s.ccr := rfl
@[simp] theorem State.setStale_mem (s : State) (v : List StaleByte) : (s.setStale v).mem = s.mem := rfl
@[simp] theorem State.setStale_mode (s : State) (v : List StaleByte) : (s.setStale v).mode = s.mode := rfl
@[simp] theorem State.setStale_inhibitNext (s : State) (v : List StaleByte) : (s.setStale v).inhibitNext = s.inhibitNext := rfl
@[simp] theorem State.setStale_pending (s : State) (v : List StaleByte) : (s.setStale v).pending = s.pending := rfl
@[simp] theorem State.setStale_irqPin (s : State) (v : List StaleByte) : (s.setStale v).irqPin = s.irqPin := rfl
@[simp] theorem State.setStale_resetRequested (s : State) (v : List StaleByte) : (s.setStale v).resetRequested = s.resetRequested := rfl
@[simp] theorem State.setStale_platform (s : State) (v : List StaleByte) : (s.setStale v).platform = s.platform := rfl
@[simp] theorem State.setStale_inputs (s : State) (v : List StaleByte) : (s.setStale v).inputs = s.inputs := rfl
@[simp] theorem State.setStale_draws (s : State) (v : List StaleByte) : (s.setStale v).draws = s.draws := rfl
@[simp] theorem State.setStale_stale (s : State) (v : List StaleByte) : (s.setStale v).stale = v := rfl
@[simp] theorem State.setStale_cycles (s : State) (v : List StaleByte) : (s.setStale v).cycles = s.cycles := rfl

@[simp] theorem State.setCycles_a (s : State) (v : Nat) : (s.setCycles v).a = s.a := rfl
@[simp] theorem State.setCycles_x (s : State) (v : Nat) : (s.setCycles v).x = s.x := rfl
@[simp] theorem State.setCycles_h (s : State) (v : Nat) : (s.setCycles v).h = s.h := rfl
@[simp] theorem State.setCycles_sp (s : State) (v : Nat) : (s.setCycles v).sp = s.sp := rfl
@[simp] theorem State.setCycles_pc (s : State) (v : Nat) : (s.setCycles v).pc = s.pc := rfl
@[simp] theorem State.setCycles_ccr (s : State) (v : Nat) : (s.setCycles v).ccr = s.ccr := rfl
@[simp] theorem State.setCycles_mem (s : State) (v : Nat) : (s.setCycles v).mem = s.mem := rfl
@[simp] theorem State.setCycles_mode (s : State) (v : Nat) : (s.setCycles v).mode = s.mode := rfl
@[simp] theorem State.setCycles_inhibitNext (s : State) (v : Nat) : (s.setCycles v).inhibitNext = s.inhibitNext := rfl
@[simp] theorem State.setCycles_pending (s : State) (v : Nat) : (s.setCycles v).pending = s.pending := rfl
@[simp] theorem State.setCycles_irqPin (s : State) (v : Nat) : (s.setCycles v).irqPin = s.irqPin := rfl
@[simp] theorem State.setCycles_resetRequested (s : State) (v : Nat) : (s.setCycles v).resetRequested = s.resetRequested := rfl
@[simp] theorem State.setCycles_platform (s : State) (v : Nat) : (s.setCycles v).platform = s.platform := rfl
@[simp] theorem State.setCycles_inputs (s : State) (v : Nat) : (s.setCycles v).inputs = s.inputs := rfl
@[simp] theorem State.setCycles_draws (s : State) (v : Nat) : (s.setCycles v).draws = s.draws := rfl
@[simp] theorem State.setCycles_stale (s : State) (v : Nat) : (s.setCycles v).stale = s.stale := rfl
@[simp] theorem State.setCycles_cycles (s : State) (v : Nat) : (s.setCycles v).cycles = v := rfl

end Sys2Proof.Machine
end

