-- ==== Sys2Proof/Laws/Ops.lean ====
section
/-! SUPPORT. What the shared operations do, said once: the fields each leaves alone, and one lemma for
each access sequence that says everything it can do. -/

namespace Sys2Proof.Machine

/-! ## Fields left alone -/

@[simp] theorem State.drawn_a (s : State) : (s.drawn).a = s.a := rfl
@[simp] theorem State.drawn_x (s : State) : (s.drawn).x = s.x := rfl
@[simp] theorem State.drawn_h (s : State) : (s.drawn).h = s.h := rfl
@[simp] theorem State.drawn_sp (s : State) : (s.drawn).sp = s.sp := rfl
@[simp] theorem State.drawn_pc (s : State) : (s.drawn).pc = s.pc := rfl
@[simp] theorem State.drawn_ccr (s : State) : (s.drawn).ccr = s.ccr := rfl
@[simp] theorem State.drawn_mem (s : State) : (s.drawn).mem = s.mem := rfl
@[simp] theorem State.drawn_mode (s : State) : (s.drawn).mode = s.mode := rfl
@[simp] theorem State.drawn_inhibitNext (s : State) : (s.drawn).inhibitNext = s.inhibitNext := rfl
@[simp] theorem State.drawn_pending (s : State) : (s.drawn).pending = s.pending := rfl
@[simp] theorem State.drawn_irqPin (s : State) : (s.drawn).irqPin = s.irqPin := rfl
@[simp] theorem State.drawn_resetRequested (s : State) : (s.drawn).resetRequested = s.resetRequested := rfl
@[simp] theorem State.drawn_platform (s : State) : (s.drawn).platform = s.platform := rfl
@[simp] theorem State.drawn_inputs (s : State) : (s.drawn).inputs = s.inputs := rfl
@[simp] theorem State.drawn_draws (s : State) : (s.drawn).draws = s.draws + 1 := rfl
@[simp] theorem State.drawn_stale (s : State) : (s.drawn).stale = s.stale := rfl
@[simp] theorem State.drawn_cycles (s : State) : (s.drawn).cycles = s.cycles := rfl

@[simp] theorem State.setHx_a (s : State) (v : Addr) : (s.setHx v).a = s.a := rfl
@[simp] theorem State.setHx_sp (s : State) (v : Addr) : (s.setHx v).sp = s.sp := rfl
@[simp] theorem State.setHx_pc (s : State) (v : Addr) : (s.setHx v).pc = s.pc := rfl
@[simp] theorem State.setHx_ccr (s : State) (v : Addr) : (s.setHx v).ccr = s.ccr := rfl
@[simp] theorem State.setHx_mem (s : State) (v : Addr) : (s.setHx v).mem = s.mem := rfl
@[simp] theorem State.setHx_mode (s : State) (v : Addr) : (s.setHx v).mode = s.mode := rfl
@[simp] theorem State.setHx_inhibitNext (s : State) (v : Addr) : (s.setHx v).inhibitNext = s.inhibitNext := rfl
@[simp] theorem State.setHx_pending (s : State) (v : Addr) : (s.setHx v).pending = s.pending := rfl
@[simp] theorem State.setHx_irqPin (s : State) (v : Addr) : (s.setHx v).irqPin = s.irqPin := rfl
@[simp] theorem State.setHx_resetRequested (s : State) (v : Addr) : (s.setHx v).resetRequested = s.resetRequested := rfl
@[simp] theorem State.setHx_platform (s : State) (v : Addr) : (s.setHx v).platform = s.platform := rfl
@[simp] theorem State.setHx_inputs (s : State) (v : Addr) : (s.setHx v).inputs = s.inputs := rfl
@[simp] theorem State.setHx_draws (s : State) (v : Addr) : (s.setHx v).draws = s.draws := rfl
@[simp] theorem State.setHx_stale (s : State) (v : Addr) : (s.setHx v).stale = s.stale := rfl
@[simp] theorem State.setHx_cycles (s : State) (v : Addr) : (s.setHx v).cycles = s.cycles := rfl

@[simp] theorem State.setI_a (s : State) (b : Bool) : (s.setI b).a = s.a := rfl
@[simp] theorem State.setI_x (s : State) (b : Bool) : (s.setI b).x = s.x := rfl
@[simp] theorem State.setI_h (s : State) (b : Bool) : (s.setI b).h = s.h := rfl
@[simp] theorem State.setI_sp (s : State) (b : Bool) : (s.setI b).sp = s.sp := rfl
@[simp] theorem State.setI_pc (s : State) (b : Bool) : (s.setI b).pc = s.pc := rfl
@[simp] theorem State.setI_mem (s : State) (b : Bool) : (s.setI b).mem = s.mem := rfl
@[simp] theorem State.setI_mode (s : State) (b : Bool) : (s.setI b).mode = s.mode := rfl
@[simp] theorem State.setI_inhibitNext (s : State) (b : Bool) : (s.setI b).inhibitNext = s.inhibitNext := rfl
@[simp] theorem State.setI_pending (s : State) (b : Bool) : (s.setI b).pending = s.pending := rfl
@[simp] theorem State.setI_irqPin (s : State) (b : Bool) : (s.setI b).irqPin = s.irqPin := rfl
@[simp] theorem State.setI_resetRequested (s : State) (b : Bool) : (s.setI b).resetRequested = s.resetRequested := rfl
@[simp] theorem State.setI_platform (s : State) (b : Bool) : (s.setI b).platform = s.platform := rfl
@[simp] theorem State.setI_inputs (s : State) (b : Bool) : (s.setI b).inputs = s.inputs := rfl
@[simp] theorem State.setI_draws (s : State) (b : Bool) : (s.setI b).draws = s.draws := rfl
@[simp] theorem State.setI_stale (s : State) (b : Bool) : (s.setI b).stale = s.stale := rfl
@[simp] theorem State.setI_cycles (s : State) (b : Bool) : (s.setI b).cycles = s.cycles := rfl

@[simp] theorem State.bumpHx_a (s : State) : (s.bumpHx).a = s.a := rfl
@[simp] theorem State.bumpHx_sp (s : State) : (s.bumpHx).sp = s.sp := rfl
@[simp] theorem State.bumpHx_pc (s : State) : (s.bumpHx).pc = s.pc := rfl
@[simp] theorem State.bumpHx_ccr (s : State) : (s.bumpHx).ccr = s.ccr := rfl
@[simp] theorem State.bumpHx_mem (s : State) : (s.bumpHx).mem = s.mem := rfl
@[simp] theorem State.bumpHx_mode (s : State) : (s.bumpHx).mode = s.mode := rfl
@[simp] theorem State.bumpHx_inhibitNext (s : State) : (s.bumpHx).inhibitNext = s.inhibitNext := rfl
@[simp] theorem State.bumpHx_pending (s : State) : (s.bumpHx).pending = s.pending := rfl
@[simp] theorem State.bumpHx_irqPin (s : State) : (s.bumpHx).irqPin = s.irqPin := rfl
@[simp] theorem State.bumpHx_resetRequested (s : State) : (s.bumpHx).resetRequested = s.resetRequested := rfl
@[simp] theorem State.bumpHx_platform (s : State) : (s.bumpHx).platform = s.platform := rfl
@[simp] theorem State.bumpHx_inputs (s : State) : (s.bumpHx).inputs = s.inputs := rfl
@[simp] theorem State.bumpHx_draws (s : State) : (s.bumpHx).draws = s.draws := rfl
@[simp] theorem State.bumpHx_stale (s : State) : (s.bumpHx).stale = s.stale := rfl
@[simp] theorem State.bumpHx_cycles (s : State) : (s.bumpHx).cycles = s.cycles := rfl

@[simp] theorem State.afterRead_a (s : State) (a : Addr) : (s.afterRead a).a = s.a := by
  unfold State.afterRead; split <;> rfl
@[simp] theorem State.afterRead_x (s : State) (a : Addr) : (s.afterRead a).x = s.x := by
  unfold State.afterRead; split <;> rfl
@[simp] theorem State.afterRead_h (s : State) (a : Addr) : (s.afterRead a).h = s.h := by
  unfold State.afterRead; split <;> rfl
@[simp] theorem State.afterRead_sp (s : State) (a : Addr) : (s.afterRead a).sp = s.sp := by
  unfold State.afterRead; split <;> rfl
@[simp] theorem State.afterRead_pc (s : State) (a : Addr) : (s.afterRead a).pc = s.pc := by
  unfold State.afterRead; split <;> rfl
@[simp] theorem State.afterRead_ccr (s : State) (a : Addr) : (s.afterRead a).ccr = s.ccr := by
  unfold State.afterRead; split <;> rfl
@[simp] theorem State.afterRead_mem (s : State) (a : Addr) : (s.afterRead a).mem = s.mem := by
  unfold State.afterRead; split <;> rfl
@[simp] theorem State.afterRead_mode (s : State) (a : Addr) : (s.afterRead a).mode = s.mode := by
  unfold State.afterRead; split <;> rfl
@[simp] theorem State.afterRead_inhibitNext (s : State) (a : Addr) : (s.afterRead a).inhibitNext = s.inhibitNext := by
  unfold State.afterRead; split <;> rfl
@[simp] theorem State.afterRead_pending (s : State) (a : Addr) : (s.afterRead a).pending = s.pending := by
  unfold State.afterRead; split <;> rfl
@[simp] theorem State.afterRead_irqPin (s : State) (a : Addr) : (s.afterRead a).irqPin = s.irqPin := by
  unfold State.afterRead; split <;> rfl
@[simp] theorem State.afterRead_resetRequested (s : State) (a : Addr) : (s.afterRead a).resetRequested = s.resetRequested := by
  unfold State.afterRead; split <;> rfl
@[simp] theorem State.afterRead_platform (s : State) (a : Addr) : (s.afterRead a).platform = s.platform := by
  unfold State.afterRead; split <;> rfl
@[simp] theorem State.afterRead_inputs (s : State) (a : Addr) : (s.afterRead a).inputs = s.inputs := by
  unfold State.afterRead; split <;> rfl
@[simp] theorem State.afterRead_stale (s : State) (a : Addr) : (s.afterRead a).stale = s.stale := by
  unfold State.afterRead; split <;> rfl
@[simp] theorem State.afterRead_cycles (s : State) (a : Addr) : (s.afterRead a).cycles = s.cycles := by
  unfold State.afterRead; split <;> rfl

@[simp] theorem State.afterWrite_a (s : State) (a : Addr) (v : Byte) : (s.afterWrite a v).a = s.a := by
  unfold State.afterWrite; split <;> rfl
@[simp] theorem State.afterWrite_x (s : State) (a : Addr) (v : Byte) : (s.afterWrite a v).x = s.x := by
  unfold State.afterWrite; split <;> rfl
@[simp] theorem State.afterWrite_h (s : State) (a : Addr) (v : Byte) : (s.afterWrite a v).h = s.h := by
  unfold State.afterWrite; split <;> rfl
@[simp] theorem State.afterWrite_sp (s : State) (a : Addr) (v : Byte) : (s.afterWrite a v).sp = s.sp := by
  unfold State.afterWrite; split <;> rfl
@[simp] theorem State.afterWrite_pc (s : State) (a : Addr) (v : Byte) : (s.afterWrite a v).pc = s.pc := by
  unfold State.afterWrite; split <;> rfl
@[simp] theorem State.afterWrite_ccr (s : State) (a : Addr) (v : Byte) : (s.afterWrite a v).ccr = s.ccr := by
  unfold State.afterWrite; split <;> rfl
@[simp] theorem State.afterWrite_mode (s : State) (a : Addr) (v : Byte) : (s.afterWrite a v).mode = s.mode := by
  unfold State.afterWrite; split <;> rfl
@[simp] theorem State.afterWrite_inhibitNext (s : State) (a : Addr) (v : Byte) : (s.afterWrite a v).inhibitNext = s.inhibitNext := by
  unfold State.afterWrite; split <;> rfl
@[simp] theorem State.afterWrite_pending (s : State) (a : Addr) (v : Byte) : (s.afterWrite a v).pending = s.pending := by
  unfold State.afterWrite; split <;> rfl
@[simp] theorem State.afterWrite_irqPin (s : State) (a : Addr) (v : Byte) : (s.afterWrite a v).irqPin = s.irqPin := by
  unfold State.afterWrite; split <;> rfl
@[simp] theorem State.afterWrite_resetRequested (s : State) (a : Addr) (v : Byte) : (s.afterWrite a v).resetRequested = s.resetRequested := by
  unfold State.afterWrite; split <;> rfl
@[simp] theorem State.afterWrite_platform (s : State) (a : Addr) (v : Byte) : (s.afterWrite a v).platform = s.platform := by
  unfold State.afterWrite; split <;> rfl
@[simp] theorem State.afterWrite_inputs (s : State) (a : Addr) (v : Byte) : (s.afterWrite a v).inputs = s.inputs := by
  unfold State.afterWrite; split <;> rfl
@[simp] theorem State.afterWrite_draws (s : State) (a : Addr) (v : Byte) : (s.afterWrite a v).draws = s.draws := by
  unfold State.afterWrite; split <;> rfl
@[simp] theorem State.afterWrite_cycles (s : State) (a : Addr) (v : Byte) : (s.afterWrite a v).cycles = s.cycles := by
  unfold State.afterWrite; split <;> rfl

@[simp] theorem State.branchIf_a (s : State) (c : Bool) (rr : Byte) : (s.branchIf c rr).a = s.a := by
  unfold State.branchIf; split <;> rfl
@[simp] theorem State.branchIf_x (s : State) (c : Bool) (rr : Byte) : (s.branchIf c rr).x = s.x := by
  unfold State.branchIf; split <;> rfl
@[simp] theorem State.branchIf_h (s : State) (c : Bool) (rr : Byte) : (s.branchIf c rr).h = s.h := by
  unfold State.branchIf; split <;> rfl
@[simp] theorem State.branchIf_sp (s : State) (c : Bool) (rr : Byte) : (s.branchIf c rr).sp = s.sp := by
  unfold State.branchIf; split <;> rfl
@[simp] theorem State.branchIf_ccr (s : State) (c : Bool) (rr : Byte) : (s.branchIf c rr).ccr = s.ccr := by
  unfold State.branchIf; split <;> rfl
@[simp] theorem State.branchIf_mem (s : State) (c : Bool) (rr : Byte) : (s.branchIf c rr).mem = s.mem := by
  unfold State.branchIf; split <;> rfl
@[simp] theorem State.branchIf_mode (s : State) (c : Bool) (rr : Byte) : (s.branchIf c rr).mode = s.mode := by
  unfold State.branchIf; split <;> rfl
@[simp] theorem State.branchIf_inhibitNext (s : State) (c : Bool) (rr : Byte) : (s.branchIf c rr).inhibitNext = s.inhibitNext := by
  unfold State.branchIf; split <;> rfl
@[simp] theorem State.branchIf_pending (s : State) (c : Bool) (rr : Byte) : (s.branchIf c rr).pending = s.pending := by
  unfold State.branchIf; split <;> rfl
@[simp] theorem State.branchIf_irqPin (s : State) (c : Bool) (rr : Byte) : (s.branchIf c rr).irqPin = s.irqPin := by
  unfold State.branchIf; split <;> rfl
@[simp] theorem State.branchIf_resetRequested (s : State) (c : Bool) (rr : Byte) : (s.branchIf c rr).resetRequested = s.resetRequested := by
  unfold State.branchIf; split <;> rfl
@[simp] theorem State.branchIf_platform (s : State) (c : Bool) (rr : Byte) : (s.branchIf c rr).platform = s.platform := by
  unfold State.branchIf; split <;> rfl
@[simp] theorem State.branchIf_inputs (s : State) (c : Bool) (rr : Byte) : (s.branchIf c rr).inputs = s.inputs := by
  unfold State.branchIf; split <;> rfl
@[simp] theorem State.branchIf_draws (s : State) (c : Bool) (rr : Byte) : (s.branchIf c rr).draws = s.draws := by
  unfold State.branchIf; split <;> rfl
@[simp] theorem State.branchIf_stale (s : State) (c : Bool) (rr : Byte) : (s.branchIf c rr).stale = s.stale := by
  unfold State.branchIf; split <;> rfl
@[simp] theorem State.branchIf_cycles (s : State) (c : Bool) (rr : Byte) : (s.branchIf c rr).cycles = s.cycles := by
  unfold State.branchIf; split <;> rfl

@[simp] theorem State.acknowledge_a (s : State) (p : Config.IntSource) : (s.acknowledge p).a = s.a := by
  unfold State.acknowledge; split <;> rfl
@[simp] theorem State.acknowledge_x (s : State) (p : Config.IntSource) : (s.acknowledge p).x = s.x := by
  unfold State.acknowledge; split <;> rfl
@[simp] theorem State.acknowledge_h (s : State) (p : Config.IntSource) : (s.acknowledge p).h = s.h := by
  unfold State.acknowledge; split <;> rfl
@[simp] theorem State.acknowledge_sp (s : State) (p : Config.IntSource) : (s.acknowledge p).sp = s.sp := by
  unfold State.acknowledge; split <;> rfl
@[simp] theorem State.acknowledge_pc (s : State) (p : Config.IntSource) : (s.acknowledge p).pc = s.pc := by
  unfold State.acknowledge; split <;> rfl
@[simp] theorem State.acknowledge_ccr (s : State) (p : Config.IntSource) : (s.acknowledge p).ccr = s.ccr := by
  unfold State.acknowledge; split <;> rfl
@[simp] theorem State.acknowledge_mem (s : State) (p : Config.IntSource) : (s.acknowledge p).mem = s.mem := by
  unfold State.acknowledge; split <;> rfl
@[simp] theorem State.acknowledge_mode (s : State) (p : Config.IntSource) : (s.acknowledge p).mode = s.mode := by
  unfold State.acknowledge; split <;> rfl
@[simp] theorem State.acknowledge_inhibitNext (s : State) (p : Config.IntSource) : (s.acknowledge p).inhibitNext = s.inhibitNext := by
  unfold State.acknowledge; split <;> rfl
@[simp] theorem State.acknowledge_irqPin (s : State) (p : Config.IntSource) : (s.acknowledge p).irqPin = s.irqPin := by
  unfold State.acknowledge; split <;> rfl
@[simp] theorem State.acknowledge_resetRequested (s : State) (p : Config.IntSource) : (s.acknowledge p).resetRequested = s.resetRequested := by
  unfold State.acknowledge; split <;> rfl
@[simp] theorem State.acknowledge_platform (s : State) (p : Config.IntSource) : (s.acknowledge p).platform = s.platform := by
  unfold State.acknowledge; split <;> rfl
@[simp] theorem State.acknowledge_inputs (s : State) (p : Config.IntSource) : (s.acknowledge p).inputs = s.inputs := by
  unfold State.acknowledge; split <;> rfl
@[simp] theorem State.acknowledge_draws (s : State) (p : Config.IntSource) : (s.acknowledge p).draws = s.draws := by
  unfold State.acknowledge; split <;> rfl
@[simp] theorem State.acknowledge_stale (s : State) (p : Config.IntSource) : (s.acknowledge p).stale = s.stale := by
  unfold State.acknowledge; split <;> rfl
@[simp] theorem State.acknowledge_cycles (s : State) (p : Config.IntSource) : (s.acknowledge p).cycles = s.cycles := by
  unfold State.acknowledge; split <;> rfl

@[simp] theorem State.chargeFree_a (s : State) : (s.chargeFree).a = s.a := rfl
@[simp] theorem State.chargeFree_x (s : State) : (s.chargeFree).x = s.x := rfl
@[simp] theorem State.chargeFree_h (s : State) : (s.chargeFree).h = s.h := rfl
@[simp] theorem State.chargeFree_sp (s : State) : (s.chargeFree).sp = s.sp := rfl
@[simp] theorem State.chargeFree_pc (s : State) : (s.chargeFree).pc = s.pc := rfl
@[simp] theorem State.chargeFree_ccr (s : State) : (s.chargeFree).ccr = s.ccr := rfl
@[simp] theorem State.chargeFree_mem (s : State) : (s.chargeFree).mem = s.mem := rfl
@[simp] theorem State.chargeFree_mode (s : State) : (s.chargeFree).mode = s.mode := rfl
@[simp] theorem State.chargeFree_inhibitNext (s : State) : (s.chargeFree).inhibitNext = s.inhibitNext := rfl
@[simp] theorem State.chargeFree_pending (s : State) : (s.chargeFree).pending = s.pending := rfl
@[simp] theorem State.chargeFree_irqPin (s : State) : (s.chargeFree).irqPin = s.irqPin := rfl
@[simp] theorem State.chargeFree_resetRequested (s : State) : (s.chargeFree).resetRequested = s.resetRequested := rfl
@[simp] theorem State.chargeFree_platform (s : State) : (s.chargeFree).platform = s.platform := rfl
@[simp] theorem State.chargeFree_inputs (s : State) : (s.chargeFree).inputs = s.inputs := rfl
@[simp] theorem State.chargeFree_draws (s : State) : (s.chargeFree).draws = s.draws + 1 := rfl
@[simp] theorem State.chargeFree_cycles (s : State) :
    (s.chargeFree).cycles = s.cycles + Config.freeCycles s.draws := rfl
@[simp] theorem State.chargeFree_stale (s : State) : (s.chargeFree).stale = s.stale := rfl

@[simp] theorem State.sampled_a (s : State) : (s.sampled).a = s.a := by
  unfold State.sampled; split <;> rfl
@[simp] theorem State.sampled_x (s : State) : (s.sampled).x = s.x := by
  unfold State.sampled; split <;> rfl
@[simp] theorem State.sampled_h (s : State) : (s.sampled).h = s.h := by
  unfold State.sampled; split <;> rfl
@[simp] theorem State.sampled_sp (s : State) : (s.sampled).sp = s.sp := by
  unfold State.sampled; split <;> rfl
@[simp] theorem State.sampled_pc (s : State) : (s.sampled).pc = s.pc := by
  unfold State.sampled; split <;> rfl
@[simp] theorem State.sampled_ccr (s : State) : (s.sampled).ccr = s.ccr := by
  unfold State.sampled; split <;> rfl
@[simp] theorem State.sampled_mem (s : State) : (s.sampled).mem = s.mem := by
  unfold State.sampled; split <;> rfl
@[simp] theorem State.sampled_mode (s : State) : (s.sampled).mode = s.mode := by
  unfold State.sampled; split <;> rfl
@[simp] theorem State.sampled_inhibitNext (s : State) : (s.sampled).inhibitNext = s.inhibitNext := by
  unfold State.sampled; split <;> rfl
@[simp] theorem State.sampled_platform (s : State) : (s.sampled).platform = s.platform := by
  unfold State.sampled; split <;> rfl
@[simp] theorem State.sampled_stale (s : State) : (s.sampled).stale = s.stale := by
  unfold State.sampled; split <;> rfl
@[simp] theorem State.sampled_cycles (s : State) : (s.sampled).cycles = s.cycles := by
  unfold State.sampled; split <;> rfl

@[simp] theorem State.pushed_a (s : State) (v : Byte) : (s.pushed v).a = s.a := by
  simp [State.pushed]
@[simp] theorem State.pushed_x (s : State) (v : Byte) : (s.pushed v).x = s.x := by
  simp [State.pushed]
@[simp] theorem State.pushed_h (s : State) (v : Byte) : (s.pushed v).h = s.h := by
  simp [State.pushed]
@[simp] theorem State.pushed_pc (s : State) (v : Byte) : (s.pushed v).pc = s.pc := by
  simp [State.pushed]
@[simp] theorem State.pushed_ccr (s : State) (v : Byte) : (s.pushed v).ccr = s.ccr := by
  simp [State.pushed]
@[simp] theorem State.pushed_mode (s : State) (v : Byte) : (s.pushed v).mode = s.mode := by
  simp [State.pushed]
@[simp] theorem State.pushed_inhibitNext (s : State) (v : Byte) : (s.pushed v).inhibitNext = s.inhibitNext := by
  simp [State.pushed]
@[simp] theorem State.pushed_pending (s : State) (v : Byte) : (s.pushed v).pending = s.pending := by
  simp [State.pushed]
@[simp] theorem State.pushed_irqPin (s : State) (v : Byte) : (s.pushed v).irqPin = s.irqPin := by
  simp [State.pushed]
@[simp] theorem State.pushed_resetRequested (s : State) (v : Byte) : (s.pushed v).resetRequested = s.resetRequested := by
  simp [State.pushed]
@[simp] theorem State.pushed_platform (s : State) (v : Byte) : (s.pushed v).platform = s.platform := by
  simp [State.pushed]
@[simp] theorem State.pushed_inputs (s : State) (v : Byte) : (s.pushed v).inputs = s.inputs := by
  simp [State.pushed]
@[simp] theorem State.pushed_draws (s : State) (v : Byte) : (s.pushed v).draws = s.draws := by
  simp [State.pushed]
@[simp] theorem State.pushed_cycles (s : State) (v : Byte) : (s.pushed v).cycles = s.cycles := by
  simp [State.pushed]

@[simp] theorem State.pulled_a (s : State) : (s.pulled).a = s.a := by
  simp [State.pulled]
@[simp] theorem State.pulled_x (s : State) : (s.pulled).x = s.x := by
  simp [State.pulled]
@[simp] theorem State.pulled_h (s : State) : (s.pulled).h = s.h := by
  simp [State.pulled]
@[simp] theorem State.pulled_pc (s : State) : (s.pulled).pc = s.pc := by
  simp [State.pulled]
@[simp] theorem State.pulled_ccr (s : State) : (s.pulled).ccr = s.ccr := by
  simp [State.pulled]
@[simp] theorem State.pulled_mem (s : State) : (s.pulled).mem = s.mem := by
  simp [State.pulled]
@[simp] theorem State.pulled_mode (s : State) : (s.pulled).mode = s.mode := by
  simp [State.pulled]
@[simp] theorem State.pulled_inhibitNext (s : State) : (s.pulled).inhibitNext = s.inhibitNext := by
  simp [State.pulled]
@[simp] theorem State.pulled_pending (s : State) : (s.pulled).pending = s.pending := by
  simp [State.pulled]
@[simp] theorem State.pulled_irqPin (s : State) : (s.pulled).irqPin = s.irqPin := by
  simp [State.pulled]
@[simp] theorem State.pulled_resetRequested (s : State) : (s.pulled).resetRequested = s.resetRequested := by
  simp [State.pulled]
@[simp] theorem State.pulled_platform (s : State) : (s.pulled).platform = s.platform := by
  simp [State.pulled]
@[simp] theorem State.pulled_inputs (s : State) : (s.pulled).inputs = s.inputs := by
  simp [State.pulled]
@[simp] theorem State.pulled_stale (s : State) : (s.pulled).stale = s.stale := by
  simp [State.pulled]
@[simp] theorem State.pulled_cycles (s : State) : (s.pulled).cycles = s.cycles := by
  simp [State.pulled]

@[simp] theorem cbeqIncrement_a (m : CbeqMode) (s : State) : (cbeqIncrement m s).a = s.a := by
  cases m <;> rfl
@[simp] theorem cbeqIncrement_sp (m : CbeqMode) (s : State) : (cbeqIncrement m s).sp = s.sp := by
  cases m <;> rfl
@[simp] theorem cbeqIncrement_pc (m : CbeqMode) (s : State) : (cbeqIncrement m s).pc = s.pc := by
  cases m <;> rfl
@[simp] theorem cbeqIncrement_ccr (m : CbeqMode) (s : State) : (cbeqIncrement m s).ccr = s.ccr := by
  cases m <;> rfl
@[simp] theorem cbeqIncrement_mem (m : CbeqMode) (s : State) : (cbeqIncrement m s).mem = s.mem := by
  cases m <;> rfl
@[simp] theorem cbeqIncrement_mode (m : CbeqMode) (s : State) : (cbeqIncrement m s).mode = s.mode := by
  cases m <;> rfl
@[simp] theorem cbeqIncrement_inhibitNext (m : CbeqMode) (s : State) : (cbeqIncrement m s).inhibitNext = s.inhibitNext := by
  cases m <;> rfl
@[simp] theorem cbeqIncrement_pending (m : CbeqMode) (s : State) : (cbeqIncrement m s).pending = s.pending := by
  cases m <;> rfl
@[simp] theorem cbeqIncrement_irqPin (m : CbeqMode) (s : State) : (cbeqIncrement m s).irqPin = s.irqPin := by
  cases m <;> rfl
@[simp] theorem cbeqIncrement_resetRequested (m : CbeqMode) (s : State) : (cbeqIncrement m s).resetRequested = s.resetRequested := by
  cases m <;> rfl
@[simp] theorem cbeqIncrement_platform (m : CbeqMode) (s : State) : (cbeqIncrement m s).platform = s.platform := by
  cases m <;> rfl
@[simp] theorem cbeqIncrement_inputs (m : CbeqMode) (s : State) : (cbeqIncrement m s).inputs = s.inputs := by
  cases m <;> rfl
@[simp] theorem cbeqIncrement_draws (m : CbeqMode) (s : State) : (cbeqIncrement m s).draws = s.draws := by
  cases m <;> rfl
@[simp] theorem cbeqIncrement_stale (m : CbeqMode) (s : State) : (cbeqIncrement m s).stale = s.stale := by
  cases m <;> rfl
@[simp] theorem cbeqIncrement_cycles (m : CbeqMode) (s : State) : (cbeqIncrement m s).cycles = s.cycles := by
  cases m <;> rfl

@[simp] theorem srcAfter_a (m : Src) (s : State) : (srcAfter m s).a = s.a := by
  cases m <;> simp [srcAfter]
@[simp] theorem srcAfter_x (m : Src) (s : State) : (srcAfter m s).x = s.x := by
  cases m <;> simp [srcAfter]
@[simp] theorem srcAfter_h (m : Src) (s : State) : (srcAfter m s).h = s.h := by
  cases m <;> simp [srcAfter]
@[simp] theorem srcAfter_sp (m : Src) (s : State) : (srcAfter m s).sp = s.sp := by
  cases m <;> simp [srcAfter]
@[simp] theorem srcAfter_pc (m : Src) (s : State) : (srcAfter m s).pc = s.pc := by
  cases m <;> simp [srcAfter]
@[simp] theorem srcAfter_ccr (m : Src) (s : State) : (srcAfter m s).ccr = s.ccr := by
  cases m <;> simp [srcAfter]
@[simp] theorem srcAfter_mem (m : Src) (s : State) : (srcAfter m s).mem = s.mem := by
  cases m <;> simp [srcAfter]
@[simp] theorem srcAfter_mode (m : Src) (s : State) : (srcAfter m s).mode = s.mode := by
  cases m <;> simp [srcAfter]
@[simp] theorem srcAfter_inhibitNext (m : Src) (s : State) : (srcAfter m s).inhibitNext = s.inhibitNext := by
  cases m <;> simp [srcAfter]
@[simp] theorem srcAfter_pending (m : Src) (s : State) : (srcAfter m s).pending = s.pending := by
  cases m <;> simp [srcAfter]
@[simp] theorem srcAfter_irqPin (m : Src) (s : State) : (srcAfter m s).irqPin = s.irqPin := by
  cases m <;> simp [srcAfter]
@[simp] theorem srcAfter_resetRequested (m : Src) (s : State) : (srcAfter m s).resetRequested = s.resetRequested := by
  cases m <;> simp [srcAfter]
@[simp] theorem srcAfter_platform (m : Src) (s : State) : (srcAfter m s).platform = s.platform := by
  cases m <;> simp [srcAfter]
@[simp] theorem srcAfter_inputs (m : Src) (s : State) : (srcAfter m s).inputs = s.inputs := by
  cases m <;> simp [srcAfter]
@[simp] theorem srcAfter_stale (m : Src) (s : State) : (srcAfter m s).stale = s.stale := by
  cases m <;> simp [srcAfter]
@[simp] theorem srcAfter_cycles (m : Src) (s : State) : (srcAfter m s).cycles = s.cycles := by
  cases m <;> simp [srcAfter]
@[simp] theorem src16After_a (m : Src16) (s : State) : (src16After m s).a = s.a := by
  cases m <;> simp [src16After]
@[simp] theorem src16After_x (m : Src16) (s : State) : (src16After m s).x = s.x := by
  cases m <;> simp [src16After]
@[simp] theorem src16After_h (m : Src16) (s : State) : (src16After m s).h = s.h := by
  cases m <;> simp [src16After]
@[simp] theorem src16After_sp (m : Src16) (s : State) : (src16After m s).sp = s.sp := by
  cases m <;> simp [src16After]
@[simp] theorem src16After_pc (m : Src16) (s : State) : (src16After m s).pc = s.pc := by
  cases m <;> simp [src16After]
@[simp] theorem src16After_ccr (m : Src16) (s : State) : (src16After m s).ccr = s.ccr := by
  cases m <;> simp [src16After]
@[simp] theorem src16After_mem (m : Src16) (s : State) : (src16After m s).mem = s.mem := by
  cases m <;> simp [src16After]
@[simp] theorem src16After_mode (m : Src16) (s : State) : (src16After m s).mode = s.mode := by
  cases m <;> simp [src16After]
@[simp] theorem src16After_inhibitNext (m : Src16) (s : State) : (src16After m s).inhibitNext = s.inhibitNext := by
  cases m <;> simp [src16After]
@[simp] theorem src16After_pending (m : Src16) (s : State) : (src16After m s).pending = s.pending := by
  cases m <;> simp [src16After]
@[simp] theorem src16After_irqPin (m : Src16) (s : State) : (src16After m s).irqPin = s.irqPin := by
  cases m <;> simp [src16After]
@[simp] theorem src16After_resetRequested (m : Src16) (s : State) : (src16After m s).resetRequested = s.resetRequested := by
  cases m <;> simp [src16After]
@[simp] theorem src16After_platform (m : Src16) (s : State) : (src16After m s).platform = s.platform := by
  cases m <;> simp [src16After]
@[simp] theorem src16After_inputs (m : Src16) (s : State) : (src16After m s).inputs = s.inputs := by
  cases m <;> simp [src16After]
@[simp] theorem src16After_stale (m : Src16) (s : State) : (src16After m s).stale = s.stale := by
  cases m <;> simp [src16After]
@[simp] theorem src16After_cycles (m : Src16) (s : State) : (src16After m s).cycles = s.cycles := by
  cases m <;> simp [src16After]

@[simp] theorem State.pushed_sp (s : State) (v : Byte) : (s.pushed v).sp = s.sp - 1 := rfl

@[simp] theorem State.pulled_sp (s : State) : s.pulled.sp = s.sp + 1 := rfl

/-! ## The address map: what an access depends on -/

theorem State.kindAt_congr {s t : State} (h : t.platform = s.platform) (a : Addr) : t.kindAt a = s.kindAt a := by
  unfold State.kindAt; rw [h]

theorem State.answers_congr {s t : State} (h : t.platform = s.platform) (a : Addr) : t.answers a = s.answers a := by
  unfold State.answers; rw [State.kindAt_congr h, h]

@[simp] theorem src16After_hx (m : Src16) (s : State) : (src16After m s).hx = s.hx := by simp [State.hx]

@[simp] theorem State.setSp_answers (s : State) (v a : Addr) : (s.setSp v).answers a = s.answers a := rfl

@[simp] theorem State.setSp_byteAt (s : State) (v a : Addr) : (s.setSp v).byteAt a = s.byteAt a := rfl

theorem State.setSp_afterRead (s : State) (v a : Addr) : (s.setSp v).afterRead a = (s.afterRead a).setSp v := by
  unfold State.afterRead
  rw [State.kindAt_congr (show (s.setSp v).platform = s.platform from rfl)]
  split <;> rfl

@[simp] theorem State.afterRead_answers (s : State) (a b : Addr) : (s.afterRead a).answers b = s.answers b :=
  State.answers_congr (by simp) b

@[simp] theorem State.afterWrite_answers (s : State) (a : Addr) (v : Byte) (b : Addr) :
    (s.afterWrite a v).answers b = s.answers b := State.answers_congr (by simp) b

@[simp] theorem State.pushed_answers (s : State) (v : Byte) (b : Addr) : (s.pushed v).answers b = s.answers b :=
  State.answers_congr (by simp) b

@[simp] theorem State.pulled_answers (s : State) (b : Addr) : s.pulled.answers b = s.answers b :=
  State.answers_congr (by simp) b

/-- A memory cell answers, reads as itself, and reading it changes nothing. -/
theorem State.isMemory_read {s : State} {a : Addr} (h : s.isMemory a) :
    s.answers a = true ∧ s.byteAt a = Memory.read s.mem a.toNat ∧ s.afterRead a = s := by
  rcases h with h | h <;> simp [State.answers, State.byteAt, State.afterRead, h]

theorem State.isRam_isMemory {s : State} {a : Addr} (h : s.isRam a) : s.isMemory a := .inl h

/-- A write to RAM answers, changes the one byte and settles it. -/
theorem State.isRam_write {s : State} {a : Addr} (h : s.isRam a) (v : Byte) :
    s.answers a = true ∧
      s.afterWrite a v = (s.setMem (Memory.write s.mem a.toNat v)).setStale (s.staleWithout a) := by
  simp [State.answers, State.afterWrite, h]

/-- A read changes nothing but the count of draws. -/
theorem State.afterRead_eq (s : State) (a : Addr) : s.afterRead a = s ∨ s.afterRead a = s.drawn := by
  unfold State.afterRead; split <;> simp

/-- A byte of memory after a write: the byte written where it is RAM, else what it was. -/
theorem State.afterWrite_read (s : State) (a : Addr) (v : Byte) (b : Nat) :
    Memory.read (s.afterWrite a v).mem b =
      if b = a.toNat ∧ s.isRam a then v else Memory.read s.mem b := by
  unfold State.afterWrite State.isRam
  split <;> rename_i h <;> simp [h, Memory.read_write]

/-- The stale bytes after a write: all but the byte written, where it is RAM. -/
@[simp] theorem State.afterWrite_stale (s : State) (a : Addr) (v : Byte) :
    (s.afterWrite a v).stale = s.staleOutside [a] := by
  have hc : s.staleOutside [a] = s.stale.filter fun e => decide (¬ (e.addr = a ∧ s.isRam a)) := by
    refine List.filter_congr fun e _ => decide_eq_decide.mpr (not_congr ?_)
    rw [List.mem_singleton]
    exact and_congr_right fun h => by rw [h]
  rw [hc]
  unfold State.afterWrite State.isRam
  split <;> rename_i h <;> simp [h, State.staleWithout]

@[simp] theorem State.pushed_stale (s : State) (v : Byte) : (s.pushed v).stale = s.staleOutside [s.sp] := by
  simp [State.pushed]

@[simp] theorem State.mem_staleOutside (s : State) (as : List Addr) (e : StaleByte) :
    e ∈ s.staleOutside as ↔ e ∈ s.stale ∧ ¬ (e.addr ∈ as ∧ s.isRam e.addr) := by
  simp only [State.staleOutside, List.mem_filter, decide_eq_true_eq]

@[simp] theorem State.staleOutside_nil (s : State) : s.staleOutside [] = s.stale := by
  simp [State.staleOutside]

theorem State.staleOutside_sublist (s : State) (as : List Addr) : (s.staleOutside as).Sublist s.stale :=
  List.filter_sublist

/-- Stores one after the other settle what they settle together. -/
theorem State.staleOutside_trans {s t : State} {as : List Addr} (h : t.stale = s.staleOutside as)
    (hp : t.platform = s.platform) (bs : List Addr) : t.staleOutside bs = s.staleOutside (as ++ bs) := by
  unfold State.staleOutside at h ⊢
  rw [h, List.filter_filter]
  refine List.filter_congr fun e _ => ?_
  rw [Bool.eq_iff_iff]
  simp only [State.isRam, State.kindAt_congr hp, List.mem_append, decide_eq_true_eq, Bool.and_eq_true]
  tauto

theorem State.staleOutside_congr {s t : State} (h : t.stale = s.stale) (hp : t.platform = s.platform)
    (as : List Addr) : t.staleOutside as = s.staleOutside as :=
  State.staleOutside_trans (as := []) (by rw [h, State.staleOutside_nil]) hp as

theorem State.afterWrite_wf {s : State} (a : Addr) (v : Byte) (h : s.mem.wf) : (s.afterWrite a v).mem.wf := by
  unfold State.afterWrite
  split
  · exact Memory.write_wf a v h
  all_goals exact h

/-! ## Access sequences: what each can do -/

theorem bind_ok {α β : Type} {r : Access α} {k : α → Access β} {b : β} :
    (r >>= k) = .ok b ↔ ∃ a, r = .ok a ∧ k a = .ok b := by
  cases r with
  | error e => simp [bind, Except.bind]
  | ok a => simp [bind, Except.bind]

theorem pure_ok {α : Type} {a b : α} : (pure a : Access α) = .ok b ↔ a = b := by
  simp [pure, Except.pure]

theorem answer_next {r : Access State} {t : State} : answer r = .next t ↔ r = .ok t := by
  cases r <;> simp [answer]

theorem readByte_ok {a : Addr} {s : State} {r : Byte × State} :
    readByte a s = .ok r ↔ s.answers a = true ∧ r = (s.byteAt a, s.afterRead a) := by
  unfold readByte
  cases s.answers a <;> simp [eq_comm]

theorem writeByte_ok {a : Addr} {v : Byte} {s t : State} :
    writeByte a v s = .ok t ↔ s.answers a = true ∧ t = s.afterWrite a v := by
  unfold writeByte
  cases s.answers a <;> simp [eq_comm]

theorem readWord_ok {a : Addr} {s : State} {r : Addr × State} :
    readWord a s = .ok r ↔ s.answers a = true ∧ s.answers (a + 1) = true ∧
      r = (word (s.byteAt a) ((s.afterRead a).byteAt (a + 1)), (s.afterRead a).afterRead (a + 1)) := by
  simp only [readWord, bind_ok, readByte_ok, pure_ok]
  constructor
  · rintro ⟨_, ⟨h1, rfl⟩, _, ⟨h2, rfl⟩, rfl⟩
    exact ⟨h1, by simpa using h2, rfl⟩
  · rintro ⟨h1, h2, rfl⟩
    exact ⟨_, ⟨h1, rfl⟩, _, ⟨by simpa using h2, rfl⟩, rfl⟩

theorem writeWord_ok {a v : Addr} {s t : State} :
    writeWord a v s = .ok t ↔ s.answers a = true ∧ s.answers (a + 1) = true ∧
      t = (s.afterWrite a (hiByte v)).afterWrite (a + 1) (loByte v) := by
  simp only [writeWord, bind_ok, writeByte_ok]
  constructor
  · rintro ⟨_, ⟨h1, rfl⟩, h2, rfl⟩
    exact ⟨h1, by simpa using h2, rfl⟩
  · rintro ⟨h1, h2, rfl⟩
    exact ⟨_, ⟨h1, rfl⟩, by simpa using h2, rfl⟩

theorem push8_ok {v : Byte} {s t : State} :
    push8 v s = .ok t ↔ s.answers s.sp = true ∧ t = s.pushed v := by
  simp only [push8, bind_ok, writeByte_ok, pure_ok]
  constructor
  · rintro ⟨_, ⟨h, rfl⟩, rfl⟩
    exact ⟨h, by simp [State.pushed]⟩
  · rintro ⟨h, rfl⟩
    exact ⟨_, ⟨h, rfl⟩, by simp [State.pushed]⟩

theorem pull8_ok {s : State} {r : Byte × State} :
    pull8 s = .ok r ↔ s.answers (s.sp + 1) = true ∧ r = (s.top, s.pulled) := by
  simp only [pull8, readByte_ok, State.setSp_answers, State.setSp_byteAt, State.setSp_afterRead,
    State.top, State.pulled]

theorem pushAddr_ok {ret : Addr} {s t : State} :
    pushAddr ret s = .ok t ↔ s.answers s.sp = true ∧ s.answers (s.sp - 1) = true ∧
      t = (s.pushed (loByte ret)).pushed (hiByte ret) := by
  simp only [pushAddr, bind_ok, push8_ok]
  constructor
  · rintro ⟨_, ⟨h1, rfl⟩, h2, rfl⟩
    exact ⟨h1, by simpa using h2, rfl⟩
  · rintro ⟨h1, h2, rfl⟩
    exact ⟨_, ⟨h1, rfl⟩, by simpa using h2, rfl⟩

theorem pullAddr_ok {s : State} {r : Addr × State} :
    pullAddr s = .ok r ↔ s.answers (s.sp + 1) = true ∧ s.answers (s.sp + 1 + 1) = true ∧
      r = (word s.top s.pulled.top, s.pulled.pulled) := by
  simp only [pullAddr, bind_ok, pull8_ok, pure_ok]
  constructor
  · rintro ⟨_, ⟨h1, rfl⟩, _, ⟨h2, rfl⟩, rfl⟩
    exact ⟨h1, by simpa using h2, rfl⟩
  · rintro ⟨h1, h2, rfl⟩
    exact ⟨_, ⟨h1, rfl⟩, _, ⟨by simpa using h2, rfl⟩, rfl⟩

theorem pushFrame_ok {ret : Addr} {s t : State} :
    pushFrame ret s = .ok t ↔ s.answers s.sp = true ∧ s.answers (s.sp - 1) = true ∧
      s.answers (s.sp - 1 - 1) = true ∧ s.answers (s.sp - 1 - 1 - 1) = true ∧
      s.answers (s.sp - 1 - 1 - 1 - 1) = true ∧
      t = ((((s.pushed (loByte ret)).pushed (hiByte ret)).pushed s.x).pushed s.a).pushed s.ccr.toByte := by
  simp only [pushFrame, bind_ok, pushAddr_ok, push8_ok]
  constructor
  · rintro ⟨_, ⟨h1, h2, rfl⟩, _, ⟨h3, rfl⟩, _, ⟨h4, rfl⟩, h5, rfl⟩
    simp only [State.pushed_answers, State.pushed_sp, State.pushed_a, State.pushed_x,
      State.pushed_ccr] at h3 h4 h5 ⊢
    exact ⟨h1, h2, h3, h4, h5, trivial⟩
  · rintro ⟨h1, h2, h3, h4, h5, rfl⟩
    refine ⟨_, ⟨h1, h2, rfl⟩, _, ⟨?_, rfl⟩, _, ⟨?_, rfl⟩, ?_, ?_⟩ <;>
      simp only [State.pushed_answers, State.pushed_sp, State.pushed_a, State.pushed_x,
        State.pushed_ccr] <;> trivial

theorem jumpVector_ok {vector : Addr} {s t : State} :
    jumpVector vector s = .ok t ↔ s.answers vector = true ∧ s.answers (vector + 1) = true ∧
      t = ((s.afterRead vector).afterRead (vector + 1)).setPc
        (word (s.byteAt vector) ((s.afterRead vector).byteAt (vector + 1))) := by
  simp only [jumpVector, bind_ok, readWord_ok, pure_ok]
  constructor
  · rintro ⟨_, ⟨h1, h2, rfl⟩, rfl⟩
    exact ⟨h1, h2, rfl⟩
  · rintro ⟨h1, h2, rfl⟩
    exact ⟨_, ⟨h1, h2, rfl⟩, rfl⟩

/-- Taking an exception is pushing the frame, then loading PC from the vector in the state with I set
and the mode Running. -/
theorem trapEntry_ok {vector ret : Addr} {s t : State} :
    trapEntry vector ret s = .ok t ↔
      ∃ u, pushFrame ret s = .ok u ∧ jumpVector vector ((u.setI true).setMode .running) = .ok t := by
  simp only [trapEntry, bind_ok]

theorem operand8_ok {m : Src} {s : State} {r : Byte × State} :
    operand8 m s = .ok r ↔ srcAnswers m s ∧ r = (srcValue m s, srcAfter m s) := by
  cases m with
  | imm ii => simp [operand8, srcAnswers, srcValue, srcAfter, eq_comm]
  | mem m => simp [operand8, srcAnswers, srcValue, srcAfter, readByte_ok]

theorem operand16_ok {m : Src16} {s : State} {r : Addr × State} :
    operand16 m s = .ok r ↔ src16Answers m s ∧ r = (src16Value m s, src16After m s) := by
  cases m with
  | imm v => simp [operand16, src16Answers, src16Value, src16After, eq_comm]
  | dir dd => simp [operand16, src16Answers, src16Value, src16After, readWord_ok, and_assoc]

/-! ## Shared shapes of instructions -/

theorem accumulate_next {op : Byte → Byte → Ccr → Byte × Ccr} {m : Src} {s t : State} :
    accumulate op m s = .next t ↔ srcAnswers m s ∧
      t = ((srcAfter m s).setA (op (srcAfter m s).a (srcValue m s) (srcAfter m s).ccr).1).setCcr
        (op (srcAfter m s).a (srcValue m s) (srcAfter m s).ccr).2 := by
  simp only [accumulate, answer_next, bind_ok, operand8_ok, pure_ok]
  constructor
  · rintro ⟨_, ⟨h, rfl⟩, rfl⟩; exact ⟨h, rfl⟩
  · rintro ⟨h, rfl⟩; exact ⟨_, ⟨h, rfl⟩, rfl⟩

theorem compare_next {op : Byte → Byte → Ccr → Byte × Ccr} {reg : State → Byte} {m : Src} {s t : State} :
    compare op reg m s = .next t ↔ srcAnswers m s ∧
      t = (srcAfter m s).setCcr (op (reg (srcAfter m s)) (srcValue m s) (srcAfter m s).ccr).2 := by
  simp only [compare, answer_next, bind_ok, operand8_ok, pure_ok]
  constructor
  · rintro ⟨_, ⟨h, rfl⟩, rfl⟩; exact ⟨h, rfl⟩
  · rintro ⟨h, rfl⟩; exact ⟨_, ⟨h, rfl⟩, rfl⟩

theorem load_next {set : State → Byte → State} {m : Src} {s t : State} :
    load set m s = .next t ↔ srcAnswers m s ∧
      t = (set (srcAfter m s) (srcValue m s)).setCcr ((srcAfter m s).ccr.moved8 (srcValue m s)) := by
  simp only [load, answer_next, bind_ok, operand8_ok, pure_ok]
  constructor
  · rintro ⟨_, ⟨h, rfl⟩, rfl⟩; exact ⟨h, rfl⟩
  · rintro ⟨h, rfl⟩; exact ⟨_, ⟨h, rfl⟩, rfl⟩

theorem store_next {v : Byte} {m : MemMode} {s t : State} :
    store v m s = .next t ↔ s.answers (ea m s) = true ∧
      t = (s.afterWrite (ea m s) v).setCcr (s.ccr.moved8 v) := by
  simp only [store, answer_next, bind_ok, writeByte_ok, pure_ok]
  constructor
  · rintro ⟨_, ⟨h, rfl⟩, rfl⟩; exact ⟨h, by simp⟩
  · rintro ⟨h, rfl⟩; exact ⟨_, ⟨h, rfl⟩, by simp⟩

theorem modify_next {op : Byte → Ccr → Byte × Ccr} {m : RmwMode} {s t : State} :
    modify op m s = .next t ↔ s.answers (ea (rmwMem m) s) = true ∧
      t = ((s.afterRead (ea (rmwMem m) s)).afterWrite (ea (rmwMem m) s)
        (op (s.byteAt (ea (rmwMem m) s)) s.ccr).1).setCcr (op (s.byteAt (ea (rmwMem m) s)) s.ccr).2 := by
  simp only [modify, answer_next, bind_ok, readByte_ok, writeByte_ok, pure_ok]
  constructor
  · rintro ⟨_, ⟨h, rfl⟩, _, ⟨_, rfl⟩, rfl⟩; exact ⟨h, by simp⟩
  · rintro ⟨h, rfl⟩; exact ⟨_, ⟨h, rfl⟩, _, ⟨by simpa using h, rfl⟩, by simp⟩

theorem modifyBit_next {op : Byte → Byte} {dd : Byte} {s t : State} :
    modifyBit op dd s = .next t ↔ s.answers (directAddr dd) = true ∧
      t = (s.afterRead (directAddr dd)).afterWrite (directAddr dd) (op (s.byteAt (directAddr dd))) := by
  simp only [modifyBit, answer_next, bind_ok, readByte_ok, writeByte_ok]
  constructor
  · rintro ⟨_, ⟨h, rfl⟩, _, rfl⟩; exact ⟨h, rfl⟩
  · rintro ⟨h, rfl⟩; exact ⟨_, ⟨h, rfl⟩, by simpa using h, rfl⟩

theorem branchBit_next {want : Bool} {n : BitNum} {dd rr : Byte} {s t : State} :
    branchBit want n dd rr s = .next t ↔ s.answers (directAddr dd) = true ∧
      t = ((s.afterRead (directAddr dd)).setCcr
        { s.ccr with c := (s.byteAt (directAddr dd)).getLsbD n.toNat }).branchIf
          ((s.byteAt (directAddr dd)).getLsbD n.toNat == want) rr := by
  simp only [branchBit, answer_next, bind_ok, readByte_ok, pure_ok]
  constructor
  · rintro ⟨_, ⟨h, rfl⟩, rfl⟩; exact ⟨h, by simp⟩
  · rintro ⟨h, rfl⟩; exact ⟨_, ⟨h, rfl⟩, by simp⟩

/-! ## Fetching -/

/-- A fetched byte comes from PC and moves PC by one; nothing else of the machine changes but the count
of draws. -/
theorem fetchByte_ok {s : State} {r : Byte × State} (h : fetchByte s = .ok r) :
    s.answers s.pc = true ∧ ∃ n, r.2 = (s.setDraws n).setPc (s.pc + 1) := by
  simp only [fetchByte, bind_ok, readByte_ok] at h
  obtain ⟨_, ⟨ha, rfl⟩, h⟩ := h
  refine ⟨ha, ?_⟩
  rcases State.afterRead_eq s s.pc with e | e <;> rw [e] at h <;> split at h <;>
    rw [pure_ok] at h <;> subst h
  exacts [⟨s.draws, rfl⟩, ⟨s.draws + 1, rfl⟩, ⟨s.draws + 1, rfl⟩, ⟨s.draws + 1 + 1, rfl⟩]

/-- A byte that nothing made stale is the byte of memory at PC. -/
theorem fetchByte_memory {s : State} (hm : s.isMemory s.pc) (hs : s.staleAt s.pc = none) :
    fetchByte s = .ok (Memory.read s.mem s.pc.toNat, s.setPc (s.pc + 1)) := by
  obtain ⟨h1, h2, h3⟩ := State.isMemory_read hm
  simp [fetchByte, readByte, h1, h2, h3, hs, bind, Except.bind, pure, Except.pure]

/-! ## The step -/

/-- Everything a step that answers a next state can be: a reset, an interrupt, an instruction, or (in
WAIT and STOP) no change after sampling. -/
theorem step_next {s t : State} (h : step s = .next t) :
    (s.sampled.resetRequested = true ∧ takeReset s.sampled = .ok t) ∨
    (s.sampled.resetRequested = false ∧ ∃ p, s.sampled.recognised = some p ∧
      takeInterrupt p (s.sampled.setInhibitNext false) = .ok t) ∨
    (s.sampled.resetRequested = false ∧ s.sampled.recognised = none ∧ s.mode = .running ∧
      ∃ i u v, fetchInstr (s.sampled.setInhibitNext false) = .ok (i, u) ∧ exec i u = .next v ∧
        t = retire i u v) ∨
    (s.sampled.resetRequested = false ∧ s.sampled.recognised = none ∧ s.mode ≠ .running ∧
      t = s.sampled.setInhibitNext false) := by
  have hmode : (s.sampled.setInhibitNext false).mode = s.mode := by simp
  unfold step advance at h
  split at h
  · rename_i hr; exact .inl ⟨hr, answer_next.mp h⟩
  · rename_i hr
    have hr : s.sampled.resetRequested = false := by simpa using hr
    split at h
    · rename_i p hp; exact .inr (.inl ⟨hr, p, hp, answer_next.mp h⟩)
    · rename_i hp
      unfold proceed at h
      rw [hmode] at h
      cases hm : s.mode <;> rw [hm] at h
      · unfold runInstr at h
        cases hf : fetchInstr (s.sampled.setInhibitNext false) with
        | error f => rw [hf] at h; cases h
        | ok r =>
          obtain ⟨i, u⟩ := r
          rw [hf] at h
          simp only at h
          cases he : exec i u with
          | next v =>
            rw [he] at h
            injection h with h
            exact .inr (.inr (.inl ⟨hr, hp, rfl, i, u, v, rfl, he, h.symm⟩))
          | fault f => rw [he] at h; cases h
          | refused r => rw [he] at h; cases h
      all_goals
        injection h with h
        exact .inr (.inr (.inr ⟨hr, hp, by simp, h.symm⟩))

/-- A sample leaves the requests distinct and the platform's (R304, log 20). -/
theorem mergeRequests_inv (src pend r w : List Config.IntSource) (h : ∀ p ∈ pend, p ∈ src) (hn : pend.Nodup) :
   (∀ p ∈ mergeRequests src pend r w, p ∈ src) ∧ (mergeRequests src pend r w).Nodup := by
  unfold mergeRequests
  have h0 : (∀ p ∈ pend.filter (fun r => r ∉ w), p ∈ src) ∧ (pend.filter (fun r => r ∉ w)).Nodup := ⟨fun p hp => h p (List.mem_of_mem_filter hp), hn.filter _⟩
  generalize pend.filter (fun r => r ∉ w) = q at h0
  induction r generalizing q with
  | nil => exact h0
  | cons a r ih =>
    apply ih
    simp only
    split
    · rename_i hc
      refine ⟨?_, ?_⟩
      · intro p hp; rcases List.mem_append.mp hp with hp | hp
        · exact h0.1 p hp
        · simp at hp; subst hp; exact hc.1
      · rw [List.nodup_append]; refine ⟨h0.2, by simp, ?_⟩
        intro x hx y hy; simp at hy; subst hy; rintro rfl; exact hc.2 hx
    · exact h0

/-- A step with no reset requested takes the recognised interrupt, or proceeds (R317). -/
theorem step_of_no_reset {s : State} (h : s.sampled.resetRequested = false) :
    step s = match s.sampled.recognised with
      | some p => answer (takeInterrupt p (s.sampled.setInhibitNext false))
      | none => proceed (s.sampled.setInhibitNext false) := by
  unfold step advance
  simp only [h]
  rfl

end Sys2Proof.Machine
end

