-- ==== Sys2Proof/Laws/Stack.lean ====
section
/-! SUPPORT. The stack and the vectors where they lie in memory: each sequence in closed form. -/

namespace Sys2Proof.Machine

theorem sub_one_sub_one (w : Addr) : w - 1 - 1 = w - 2 := by rw [BitVec.sub_sub]; rfl
theorem add_one_add_one (w : Addr) : w + 1 + 1 = w + 2 := by rw [BitVec.add_assoc]; rfl

/-- A push on RAM stores the byte at SP, settles it and moves SP down by one. -/
theorem push8_ram {s : State} (h : s.isRam s.sp) (v : Byte) :
    push8 v s = .ok { s with
      mem := Memory.write s.mem s.sp.toNat v, sp := s.sp - 1, stale := s.staleOutside [s.sp] } := by
  rw [← State.pushed_stale s v]
  exact push8_ok.mpr ⟨(State.isRam_write h v).1, by simp only [State.pushed, (State.isRam_write h v).2]; rfl⟩

/-- A pull from memory reads the byte above SP and moves SP up by one. -/
theorem pull8_memory {s : State} (h : s.isMemory (s.sp + 1)) :
    pull8 s = .ok (Memory.read s.mem (s.sp + 1).toNat, { s with sp := s.sp + 1 }) := by
  obtain ⟨h1, h2, h3⟩ := State.isMemory_read h
  exact pull8_ok.mpr ⟨h1, by simp only [State.top, State.pulled, h2, h3]; rfl⟩

theorem pushAddrs_succ (sp : Addr) (n : Nat) : pushAddrs sp (n + 1) = pushAddrs sp n ++ [sp - BitVec.ofNat 16 n] := by
  simp [pushAddrs, List.range_succ]

/-- One more push settles one more byte. -/
theorem State.staleOutside_push {s t : State} (n : Nat) (h : t.stale = s.staleOutside (pushAddrs s.sp n))
    (hp : t.platform = s.platform) :
    t.staleOutside [s.sp - BitVec.ofNat 16 n] = s.staleOutside (pushAddrs s.sp (n + 1)) := by
  rw [State.staleOutside_trans h hp, pushAddrs_succ]

/-- A return address pushed on RAM: the low byte at the higher address. -/
theorem pushAddr_ram {s : State} (h1 : s.isRam s.sp) (h2 : s.isRam (s.sp - 1)) (ret : Addr) :
    pushAddr ret s = .ok { s with
      mem := Memory.write (Memory.write s.mem s.sp.toNat (loByte ret)) (s.sp - 1).toNat (hiByte ret)
      sp := s.sp - 2, stale := s.staleOutside (pushAddrs s.sp 2) } := by
  rw [pushAddr, push8_ram h1]
  refine (push8_ram (s := { s with mem := _, sp := s.sp - 1, stale := _ }) h2 _).trans ?_
  rw [sub_one_sub_one]
  refine congrArg _ (State.ext rfl rfl rfl rfl rfl rfl rfl rfl rfl rfl rfl rfl rfl rfl rfl ?_ rfl)
  exact State.staleOutside_push 1 (by simp [pushAddrs]) rfl

/-- A return address pulled from memory: the high byte at the lower address. -/
theorem pullAddr_memory {s : State} (h1 : s.isMemory (s.sp + 1)) (h2 : s.isMemory (s.sp + 2)) :
    pullAddr s = .ok (word (Memory.read s.mem (s.sp + 1).toNat) (Memory.read s.mem (s.sp + 2).toNat),
      { s with sp := s.sp + 2 }) := by
  rw [pullAddr, pull8_memory h1]
  simp only [bind, Except.bind]
  rw [pull8_memory (s := { s with sp := s.sp + 1 }) (by rw [add_one_add_one]; exact h2)]
  simp only [add_one_add_one]; rfl

/-- The interrupt frame pushed on RAM: the memory is `frameMemory`, SP five lower (R302). -/
theorem pushFrame_ram {s : State} (h : ∀ a ∈ pushAddrs s.sp 5, s.isRam a) (ret : Addr) :
    pushFrame ret s = .ok { s with
      mem := frameMemory ret s, sp := s.sp - 5, stale := s.staleOutside (pushAddrs s.sp 5) } := by
  have h0 : s.isRam s.sp := h _ (by simp [pushAddrs, List.range, List.range.loop])
  have h1 : s.isRam (s.sp - 1) := h _ (by simp [pushAddrs, List.range, List.range.loop])
  have h2 : s.isRam (s.sp - 2) := h _ (by simp [pushAddrs, List.range, List.range.loop])
  have h3 : s.isRam (s.sp - 3) := h _ (by simp [pushAddrs, List.range, List.range.loop])
  have h4 : s.isRam (s.sp - 4) := h _ (by simp [pushAddrs, List.range, List.range.loop])
  have e3 : s.sp - 2 - 1 = s.sp - 3 := by rw [BitVec.sub_sub]; rfl
  have e4 : s.sp - 3 - 1 = s.sp - 4 := by rw [BitVec.sub_sub]; rfl
  have e5 : s.sp - 4 - 1 = s.sp - 5 := by rw [BitVec.sub_sub]; rfl
  rw [pushFrame, pushAddr_ram h0 h1]
  simp only [bind, Except.bind]
  rw [push8_ram (s := { s with mem := _, sp := s.sp - 2, stale := _ }) h2]
  simp only [e3]
  rw [push8_ram (s := { s with mem := _, sp := s.sp - 3, stale := _ }) h3]
  simp only [e4]
  rw [push8_ram (s := { s with mem := _, sp := s.sp - 4, stale := _ }) h4]
  simp only [e5]
  refine congrArg _ (State.ext rfl rfl rfl rfl rfl rfl rfl rfl rfl rfl rfl rfl rfl rfl rfl ?_ rfl)
  exact State.staleOutside_push 4 (State.staleOutside_push 3 (State.staleOutside_push 2 rfl rfl) rfl) rfl

/-- A vector in memory, loaded into PC, the high byte at the lower address (R53). -/
theorem jumpVector_memory {vector : Addr} {s : State} (h1 : s.isMemory vector) (h2 : s.isMemory (vector + 1)) :
    jumpVector vector s = .ok { s with
      pc := word (Memory.read s.mem vector.toNat) (Memory.read s.mem (vector + 1).toNat) } := by
  obtain ⟨a1, b1, c1⟩ := State.isMemory_read h1
  obtain ⟨a2, b2, c2⟩ := State.isMemory_read h2
  exact jumpVector_ok.mpr ⟨a1, a2, by simp only [c1, b1, b2, c2]; rfl⟩

/-! ## The return from an exception -/

theorem State.setA_pulled (s : State) (v : Byte) : (s.setA v).pulled = s.pulled.setA v := by
  unfold State.pulled State.afterRead
  rw [State.kindAt_congr (show (s.setA v).platform = s.platform from rfl)]
  simp only [State.setA_sp]
  split <;> rfl

theorem State.setX_pulled (s : State) (v : Byte) : (s.setX v).pulled = s.pulled.setX v := by
  unfold State.pulled State.afterRead
  rw [State.kindAt_congr (show (s.setX v).platform = s.platform from rfl)]
  simp only [State.setX_sp]
  split <;> rfl

theorem State.setCcr_pulled (s : State) (f : Ccr) : (s.setCcr f).pulled = s.pulled.setCcr f := by
  unfold State.pulled State.afterRead
  rw [State.kindAt_congr (show (s.setCcr f).platform = s.platform from rfl)]
  simp only [State.setCcr_sp]
  split <;> rfl

@[simp] theorem State.setA_top (s : State) (v : Byte) : (s.setA v).top = s.top := rfl
@[simp] theorem State.setX_top (s : State) (v : Byte) : (s.setX v).top = s.top := rfl
@[simp] theorem State.setCcr_top (s : State) (f : Ccr) : (s.setCcr f).top = s.top := rfl

@[simp] theorem State.setA_answers (s : State) (v : Byte) (a : Addr) : (s.setA v).answers a = s.answers a := rfl
@[simp] theorem State.setX_answers (s : State) (v : Byte) (a : Addr) : (s.setX v).answers a = s.answers a := rfl
@[simp] theorem State.setCcr_answers (s : State) (f : Ccr) (a : Addr) : (s.setCcr f).answers a = s.answers a := rfl

/-- The return from an exception pulls five bytes: CCR, A, X, PCH, PCL. -/
theorem returnFromTrap_ok {s t : State} :
    returnFromTrap s = .ok t ↔ s.answers (s.sp + 1) = true ∧ s.answers (s.sp + 1 + 1) = true ∧
      s.answers (s.sp + 1 + 1 + 1) = true ∧ s.answers (s.sp + 1 + 1 + 1 + 1) = true ∧
      s.answers (s.sp + 1 + 1 + 1 + 1 + 1) = true ∧
      t = ((((s.pulled.pulled.pulled.pulled.pulled.setCcr (.ofByte s.top)).setA s.pulled.top).setX
        s.pulled.pulled.top).setPc
          (word s.pulled.pulled.pulled.top s.pulled.pulled.pulled.pulled.top)) := by
  simp only [returnFromTrap, bind_ok, pull8_ok, pullAddr_ok, pure_ok]
  constructor
  · rintro ⟨_, ⟨h1, rfl⟩, _, ⟨h2, rfl⟩, _, ⟨h3, rfl⟩, _, ⟨h4, h5, rfl⟩, rfl⟩
    simp only [State.setX_pulled, State.setA_pulled, State.setCcr_pulled, State.setX_sp, State.setA_sp,
      State.setCcr_sp, State.pulled_sp, State.setX_answers, State.setA_answers, State.setCcr_answers,
      State.pulled_answers, State.setX_top, State.setA_top, State.setCcr_top] at h2 h3 h4 h5 ⊢
    exact ⟨h1, h2, h3, h4, h5, trivial⟩
  · rintro ⟨h1, h2, h3, h4, h5, rfl⟩
    refine ⟨_, ⟨h1, rfl⟩, _, ⟨?_, rfl⟩, _, ⟨?_, rfl⟩, _, ⟨?_, ?_, rfl⟩, ?_⟩ <;>
    simp only [State.setX_pulled, State.setA_pulled, State.setCcr_pulled, State.setX_sp, State.setA_sp,
      State.setCcr_sp, State.pulled_sp, State.setX_answers, State.setA_answers, State.setCcr_answers,
      State.pulled_answers, State.setX_top, State.setA_top, State.setCcr_top] <;> trivial

/-- The return from an exception whose frame lies in memory (R272, R307). -/
theorem returnFromTrap_memory {s : State} (h1 : s.isMemory (s.sp + 1)) (h2 : s.isMemory (s.sp + 2))
    (h3 : s.isMemory (s.sp + 3)) (h4 : s.isMemory (s.sp + 4)) (h5 : s.isMemory (s.sp + 5)) :
    returnFromTrap s = .ok { s with
      ccr := .ofByte (Memory.read s.mem (s.sp + 1).toNat), a := Memory.read s.mem (s.sp + 2).toNat
      x := Memory.read s.mem (s.sp + 3).toNat, sp := s.sp + 5
      pc := word (Memory.read s.mem (s.sp + 4).toNat) (Memory.read s.mem (s.sp + 5).toNat) } := by
  have e3 : s.sp + 2 + 1 = s.sp + 3 := by rw [BitVec.add_assoc]; rfl
  have e4 : s.sp + 3 + 1 = s.sp + 4 := by rw [BitVec.add_assoc]; rfl
  have e5 : s.sp + 3 + 2 = s.sp + 5 := by rw [BitVec.add_assoc]; rfl
  rw [returnFromTrap, pull8_memory h1]
  simp only [bind, Except.bind, State.setCcr]
  rw [pull8_memory (s := { s with sp := s.sp + 1, ccr := _ }) (by rw [add_one_add_one]; exact h2)]
  simp only [add_one_add_one, State.setA]
  rw [pull8_memory (s := { s with sp := s.sp + 2, ccr := _, a := _ }) (by rw [e3]; exact h3)]
  simp only [e3, State.setX]
  rw [pullAddr_memory (s := { s with sp := s.sp + 3, ccr := _, a := _, x := _ }) (by rw [e4]; exact h4)
    (by rw [e5]; exact h5)]
  simp only [e4, e5]; rfl

end Sys2Proof.Machine
end

