-- ==== Sys2Proof/Laws/Exec.lean ====
section
/-! SUPPORT. The instructions by shape: which shared operation each meaning is, the addresses each stores
to, and, for the meanings of their own, everything they can do when they answer a next state. -/

namespace Sys2Proof.Machine

/-! ## Which shared operation a meaning is -/

theorem exec_add (m : Src) (s : State) : exec (.add m) s = accumulate addOp m s := rfl
theorem exec_adc (m : Src) (s : State) : exec (.adc m) s = accumulate adcOp m s := rfl
theorem exec_sub (m : Src) (s : State) : exec (.sub m) s = accumulate subOp m s := rfl
theorem exec_sbc (m : Src) (s : State) : exec (.sbc m) s = accumulate sbcOp m s := rfl
theorem exec_and (m : Src) (s : State) : exec (.and m) s = accumulate andOp m s := rfl
theorem exec_ora (m : Src) (s : State) : exec (.ora m) s = accumulate oraOp m s := rfl
theorem exec_eor (m : Src) (s : State) : exec (.eor m) s = accumulate eorOp m s := rfl
theorem exec_cmp (m : Src) (s : State) : exec (.cmp m) s = compare subOp State.a m s := rfl
theorem exec_cpx (m : Src) (s : State) : exec (.cpx m) s = compare subOp State.x m s := rfl
theorem exec_bit (m : Src) (s : State) : exec (.bit m) s = compare andOp State.a m s := rfl
theorem exec_lda (m : Src) (s : State) : exec (.lda m) s = load State.setA m s := rfl
theorem exec_ldx (m : Src) (s : State) : exec (.ldx m) s = load State.setX m s := rfl
theorem exec_sta (m : MemMode) (s : State) : exec (.sta m) s = store s.a m s := rfl
theorem exec_stx (m : MemMode) (s : State) : exec (.stx m) s = store s.x m s := rfl
theorem exec_inc (m : RmwMode) (s : State) : exec (.inc m) s = modify incOp m s := rfl
theorem exec_inca (s : State) : exec .inca s = modifyA incOp s := rfl
theorem exec_incx (s : State) : exec .incx s = modifyX incOp s := rfl
theorem exec_dec (m : RmwMode) (s : State) : exec (.dec m) s = modify decOp m s := rfl
theorem exec_deca (s : State) : exec .deca s = modifyA decOp s := rfl
theorem exec_decx (s : State) : exec .decx s = modifyX decOp s := rfl
theorem exec_com (m : RmwMode) (s : State) : exec (.com m) s = modify comOp m s := rfl
theorem exec_coma (s : State) : exec .coma s = modifyA comOp s := rfl
theorem exec_comx (s : State) : exec .comx s = modifyX comOp s := rfl
theorem exec_neg (m : RmwMode) (s : State) : exec (.neg m) s = modify negOp m s := rfl
theorem exec_nega (s : State) : exec .nega s = modifyA negOp s := rfl
theorem exec_negx (s : State) : exec .negx s = modifyX negOp s := rfl
theorem exec_lsl (m : RmwMode) (s : State) : exec (.lsl m) s = modify lslOp m s := rfl
theorem exec_lsla (s : State) : exec .lsla s = modifyA lslOp s := rfl
theorem exec_lslx (s : State) : exec .lslx s = modifyX lslOp s := rfl
theorem exec_asl (m : RmwMode) (s : State) : exec (.asl m) s = modify lslOp m s := rfl
theorem exec_asla (s : State) : exec .asla s = modifyA lslOp s := rfl
theorem exec_aslx (s : State) : exec .aslx s = modifyX lslOp s := rfl
theorem exec_asr (m : RmwMode) (s : State) : exec (.asr m) s = modify asrOp m s := rfl
theorem exec_asra (s : State) : exec .asra s = modifyA asrOp s := rfl
theorem exec_asrx (s : State) : exec .asrx s = modifyX asrOp s := rfl
theorem exec_lsr (m : RmwMode) (s : State) : exec (.lsr m) s = modify lsrOp m s := rfl
theorem exec_lsra (s : State) : exec .lsra s = modifyA lsrOp s := rfl
theorem exec_lsrx (s : State) : exec .lsrx s = modifyX lsrOp s := rfl
theorem exec_rol (m : RmwMode) (s : State) : exec (.rol m) s = modify rolOp m s := rfl
theorem exec_rola (s : State) : exec .rola s = modifyA rolOp s := rfl
theorem exec_rolx (s : State) : exec .rolx s = modifyX rolOp s := rfl
theorem exec_ror (m : RmwMode) (s : State) : exec (.ror m) s = modify rorOp m s := rfl
theorem exec_rora (s : State) : exec .rora s = modifyA rorOp s := rfl
theorem exec_rorx (s : State) : exec .rorx s = modifyX rorOp s := rfl
theorem exec_bclr (n : BitNum) (dd : Byte) (s : State) :
    exec (.bclr n dd) s = modifyBit (· &&& ~~~(bitMask n)) dd s := rfl
theorem exec_bset (n : BitNum) (dd : Byte) (s : State) : exec (.bset n dd) s = modifyBit (· ||| bitMask n) dd s := rfl
theorem exec_brclr (n : BitNum) (dd rr : Byte) (s : State) : exec (.brclr n dd rr) s = branchBit false n dd rr s := rfl
theorem exec_brset (n : BitNum) (dd rr : Byte) (s : State) : exec (.brset n dd rr) s = branchBit true n dd rr s := rfl

/-! ## The addresses stored to -/

@[simp] theorem storeAddrs_inc (m : RmwMode) (s : State) : storeAddrs (.inc m) s = [ea (rmwMem m) s] := rfl
@[simp] theorem storeAddrs_dec (m : RmwMode) (s : State) : storeAddrs (.dec m) s = [ea (rmwMem m) s] := rfl
@[simp] theorem storeAddrs_com (m : RmwMode) (s : State) : storeAddrs (.com m) s = [ea (rmwMem m) s] := rfl
@[simp] theorem storeAddrs_neg (m : RmwMode) (s : State) : storeAddrs (.neg m) s = [ea (rmwMem m) s] := rfl
@[simp] theorem storeAddrs_lsl (m : RmwMode) (s : State) : storeAddrs (.lsl m) s = [ea (rmwMem m) s] := rfl
@[simp] theorem storeAddrs_asl (m : RmwMode) (s : State) : storeAddrs (.asl m) s = [ea (rmwMem m) s] := rfl
@[simp] theorem storeAddrs_asr (m : RmwMode) (s : State) : storeAddrs (.asr m) s = [ea (rmwMem m) s] := rfl
@[simp] theorem storeAddrs_lsr (m : RmwMode) (s : State) : storeAddrs (.lsr m) s = [ea (rmwMem m) s] := rfl
@[simp] theorem storeAddrs_rol (m : RmwMode) (s : State) : storeAddrs (.rol m) s = [ea (rmwMem m) s] := rfl
@[simp] theorem storeAddrs_ror (m : RmwMode) (s : State) : storeAddrs (.ror m) s = [ea (rmwMem m) s] := rfl
@[simp] theorem storeAddrs_clr (m : RmwMode) (s : State) : storeAddrs (.clr m) s = [ea (rmwMem m) s] := rfl
@[simp] theorem storeAddrs_dbnz (m : RmwMode) (rr : Byte) (s : State) :
    storeAddrs (.dbnz m rr) s = [ea (rmwMem m) s] := rfl
@[simp] theorem storeAddrs_sta (m : MemMode) (s : State) : storeAddrs (.sta m) s = [ea m s] := rfl
@[simp] theorem storeAddrs_stx (m : MemMode) (s : State) : storeAddrs (.stx m) s = [ea m s] := rfl
@[simp] theorem storeAddrs_sthx (dd : Byte) (s : State) :
    storeAddrs (.sthx dd) s = [directAddr dd, directAddr dd + 1] := rfl
@[simp] theorem storeAddrs_bclr (n : BitNum) (dd : Byte) (s : State) : storeAddrs (.bclr n dd) s = [directAddr dd] := rfl
@[simp] theorem storeAddrs_bset (n : BitNum) (dd : Byte) (s : State) : storeAddrs (.bset n dd) s = [directAddr dd] := rfl
@[simp] theorem storeAddrs_psha (s : State) : storeAddrs .psha s = pushAddrs s.sp 1 := rfl
@[simp] theorem storeAddrs_pshh (s : State) : storeAddrs .pshh s = pushAddrs s.sp 1 := rfl
@[simp] theorem storeAddrs_pshx (s : State) : storeAddrs .pshx s = pushAddrs s.sp 1 := rfl
@[simp] theorem storeAddrs_jsr (m : JumpMode) (s : State) : storeAddrs (.jsr m) s = pushAddrs s.sp 2 := rfl
@[simp] theorem storeAddrs_bsr (rr : Byte) (s : State) : storeAddrs (.bsr rr) s = pushAddrs s.sp 2 := rfl
@[simp] theorem storeAddrs_swi (s : State) : storeAddrs .swi s = pushAddrs s.sp 5 := rfl

theorem pushAddrs_one (sp : Addr) : pushAddrs sp 1 = [sp] := by simp [pushAddrs, List.range, List.range.loop]

theorem pushAddrs_two (sp : Addr) : pushAddrs sp 2 = [sp, sp - 1] := by
  simp [pushAddrs, List.range, List.range.loop]

theorem pushAddrs_five (sp : Addr) : pushAddrs sp 5 = [sp, sp - 1, sp - 2, sp - 3, sp - 4] := by
  simp [pushAddrs, List.range, List.range.loop]

/-! ## What the other meanings can do -/

theorem next_inj {s t : State} (h : (Host.Outcome.next s : Result) = .next t) : t = s := by
  injection h with h; exact h.symm

/-- A push as a meaning. -/
theorem push8_next {v : Byte} {s t : State} :
    answer (push8 v s) = .next t ↔ s.answers s.sp = true ∧ t = s.pushed v := by
  rw [answer_next, push8_ok]

/-- A pull into a register as a meaning. -/
theorem pull8_set_next {set : State → Byte → State} {s t : State} :
    (answer do let (v, s) ← pull8 s; return set s v) = .next t ↔
      s.answers (s.sp + 1) = true ∧ t = set s.pulled s.top := by
  simp only [answer_next, bind_ok, pull8_ok, pure_ok]
  constructor
  · rintro ⟨_, ⟨h, rfl⟩, rfl⟩; exact ⟨h, rfl⟩
  · rintro ⟨h, rfl⟩; exact ⟨_, ⟨h, rfl⟩, rfl⟩

theorem exec_ldhx_next {m : Src16} {s t : State} (h : exec (.ldhx m) s = .next t) :
    t = ((src16After m s).setHx (src16Value m s)).setCcr (s.ccr.moved16 (src16Value m s)) := by
  have h := answer_next.mp h
  simp only [bind_ok, operand16_ok, pure_ok] at h
  obtain ⟨_, ⟨_, rfl⟩, rfl⟩ := h
  simp

theorem exec_cphx_next {m : Src16} {s t : State} (h : exec (.cphx m) s = .next t) :
    t = (src16After m s).setCcr (sub16 s.hx (src16Value m s) s.ccr).2 := by
  have h := answer_next.mp h
  simp only [bind_ok, operand16_ok, pure_ok] at h
  obtain ⟨_, ⟨_, rfl⟩, rfl⟩ := h
  simp

theorem exec_sthx_next {dd : Byte} {s t : State} (h : exec (.sthx dd) s = .next t) :
    t = ((s.afterWrite (directAddr dd) (hiByte s.hx)).afterWrite (directAddr dd + 1) (loByte s.hx)).setCcr
      (s.ccr.moved16 s.hx) := by
  have h := answer_next.mp h
  simp only [bind_ok, writeWord_ok, pure_ok] at h
  obtain ⟨_, ⟨_, _, rfl⟩, rfl⟩ := h
  simp [State.hx]

/-- MOV reads at most one byte, writes one byte at its store address, and steps H:X in the X+ forms. -/
theorem exec_mov_next {m : MovMode} {s t : State} (h : exec (.mov m) s = .next t) :
    ∃ u v a, (u = s ∨ ∃ b, u = s.afterRead b) ∧ a ∈ storeAddrs (.mov m) s ∧
      (t = movFlags v (u.afterWrite a v) ∨
        (t = movFlags v ((u.afterWrite a v).bumpHx) ∧ writesX (.mov m) = true ∧ writesH (.mov m) = true)) := by
  cases m <;> have h := answer_next.mp h <;> simp only [bind_ok, readByte_ok, writeByte_ok, pure_ok] at h
  · obtain ⟨_, ⟨_, rfl⟩, _, ⟨_, rfl⟩, rfl⟩ := h
    exact ⟨_, _, _, .inr ⟨_, rfl⟩, List.mem_singleton.mpr rfl, .inl rfl⟩
  · obtain ⟨_, ⟨_, rfl⟩, _, ⟨_, rfl⟩, rfl⟩ := h
    exact ⟨_, _, _, .inr ⟨_, rfl⟩, List.mem_singleton.mpr (by simp [State.hx]), .inr ⟨rfl, rfl, rfl⟩⟩
  · obtain ⟨_, ⟨_, rfl⟩, rfl⟩ := h
    exact ⟨_, _, _, .inl rfl, List.mem_singleton.mpr rfl, .inl rfl⟩
  · obtain ⟨_, ⟨_, rfl⟩, _, ⟨_, rfl⟩, rfl⟩ := h
    exact ⟨_, _, _, .inr ⟨_, rfl⟩, List.mem_singleton.mpr rfl, .inr ⟨rfl, rfl, rfl⟩⟩

theorem clrRead_ok {a : Addr} {s t : State} (h : clrRead a s = .ok t) : t = s ∨ t = s.afterRead a := by
  unfold clrRead at h
  split at h
  · simp only [bind_ok, readByte_ok, pure_ok] at h
    obtain ⟨_, ⟨_, rfl⟩, rfl⟩ := h
    exact .inr rfl
  · exact .inl (Except.ok.inj h).symm

theorem exec_clr_next {m : RmwMode} {s t : State} (h : exec (.clr m) s = .next t) :
    ∃ u, (u = s ∨ u = s.afterRead (ea (rmwMem m) s)) ∧
      t = (u.afterWrite (ea (rmwMem m) s) 0).setCcr s.ccr.cleared := by
  have h := answer_next.mp h
  simp only [bind_ok, writeByte_ok, pure_ok] at h
  obtain ⟨u, hu, _, ⟨_, rfl⟩, rfl⟩ := h
  have hu := clrRead_ok hu
  exact ⟨u, hu, by rcases hu with rfl | rfl <;> simp⟩

theorem exec_tst_next {m : RmwMode} {s t : State} (h : exec (.tst m) s = .next t) :
    t = (s.afterRead (ea (rmwMem m) s)).setCcr (s.ccr.moved8 (s.byteAt (ea (rmwMem m) s))) := by
  have h := answer_next.mp h
  simp only [bind_ok, readByte_ok, pure_ok] at h
  obtain ⟨_, ⟨_, rfl⟩, rfl⟩ := h
  simp

theorem exec_cbeq_next {m : CbeqMode} {rr : Byte} {s t : State} (h : exec (.cbeq m rr) s = .next t) :
    t = (cbeqIncrement m (s.afterRead (ea (cbeqMem m) s))).branchIf (s.a == s.byteAt (ea (cbeqMem m) s)) rr := by
  have h := answer_next.mp h
  simp only [bind_ok, readByte_ok, pure_ok] at h
  obtain ⟨_, ⟨_, rfl⟩, rfl⟩ := h
  simp

theorem exec_dbnz_next {m : RmwMode} {rr : Byte} {s t : State} (h : exec (.dbnz m rr) s = .next t) :
    t = ((s.afterRead (ea (rmwMem m) s)).afterWrite (ea (rmwMem m) s)
      (s.byteAt (ea (rmwMem m) s) - 1)).branchIf (s.byteAt (ea (rmwMem m) s) - 1 != 0) rr := by
  have h := answer_next.mp h
  simp only [bind_ok, readByte_ok, writeByte_ok, pure_ok] at h
  obtain ⟨_, ⟨_, rfl⟩, _, ⟨_, rfl⟩, rfl⟩ := h
  rfl

theorem exec_jsr_next {m : JumpMode} {s t : State} (h : exec (.jsr m) s = .next t) :
    t = ((s.pushed (loByte s.pc)).pushed (hiByte s.pc)).setPc (ea (jumpMem m) s) := by
  have h := answer_next.mp h
  simp only [bind_ok, pushAddr_ok, pure_ok] at h
  obtain ⟨_, ⟨_, _, rfl⟩, rfl⟩ := h
  rfl

theorem exec_bsr_next {rr : Byte} {s t : State} (h : exec (.bsr rr) s = .next t) :
    t = ((s.pushed (loByte s.pc)).pushed (hiByte s.pc)).setPc (s.rel rr) := by
  have h := answer_next.mp h
  simp only [bind_ok, pushAddr_ok, pure_ok] at h
  obtain ⟨_, ⟨_, _, rfl⟩, rfl⟩ := h
  rfl

theorem exec_rts_next {s t : State} (h : exec .rts s = .next t) :
    t = s.pulled.pulled.setPc (word s.top s.pulled.top) := by
  have h := answer_next.mp h
  simp only [bind_ok, pullAddr_ok, pure_ok] at h
  obtain ⟨_, ⟨_, _, rfl⟩, rfl⟩ := h
  rfl

/-- Taking an exception pushes five bytes, sets I, ends in Running and loads PC. -/
theorem trapEntry_next {vector ret : Addr} {s t : State} (h : trapEntry vector ret s = .ok t) :
    ∃ w, t = ((((((((((s.pushed (loByte ret)).pushed (hiByte ret)).pushed s.x).pushed s.a).pushed
      s.ccr.toByte).setI true).setMode .running).afterRead vector).afterRead (vector + 1)).setPc w) := by
  obtain ⟨u, h1, h2⟩ := trapEntry_ok.mp h
  obtain ⟨_, _, _, _, _, rfl⟩ := pushFrame_ok.mp h1
  obtain ⟨_, _, rfl⟩ := jumpVector_ok.mp h2
  exact ⟨_, rfl⟩

theorem exec_swi_next {s t : State} (h : exec .swi s = .next t) :
    ∃ w, t = ((((((((((s.pushed (loByte s.pc)).pushed (hiByte s.pc)).pushed s.x).pushed s.a).pushed
      s.ccr.toByte).setI true).setMode .running).afterRead Config.vecSwi).afterRead
        (Config.vecSwi + 1)).setPc w) :=
  trapEntry_next (answer_next.mp h)

theorem exec_rti_next {s t : State} (h : exec .rti s = .next t) :
    t = ((((s.pulled.pulled.pulled.pulled.pulled.setCcr (.ofByte s.top)).setA s.pulled.top).setX
      s.pulled.pulled.top).setPc
        (word s.pulled.pulled.pulled.top s.pulled.pulled.pulled.pulled.top)) := by
  obtain ⟨_, _, _, _, _, rfl⟩ := returnFromTrap_ok.mp (answer_next.mp h)
  rfl

/-- DAA writes A and the flags but HC and I, and draws. -/
theorem exec_daa_next {s t : State} (h : exec .daa s = .next t) :
    ∃ d a f, t = ((s.setDraws d).setA a).setCcr f ∧ s.draws ≤ d ∧ f.hc = s.ccr.hc ∧ f.i = s.ccr.i := by
  have h : execDaa s = _ := h
  unfold execDaa at h
  split at h <;> have h := next_inj h <;> subst h
  · exact ⟨s.draws + 1, s.a + _, { s.ccr.nz8 (s.a + _) with v := s.freeBit, c := _ }, rfl, Nat.le_add_right _ _,
      rfl, rfl⟩
  · refine ⟨s.draws + 5, s.freeByte,
      { s.ccr with
        v := Config.freeBit (s.draws + 4), n := Config.freeBit (s.draws + 2)
        z := Config.freeBit (s.draws + 3), c := Config.freeBit (s.draws + 1) },
      ?_, Nat.le_add_right _ _, rfl, rfl⟩
    simp only [State.drawn, State.setDraws, State.setA, State.setCcr, State.freeBit, State.freeByte]

/-- DIV writes A, H, Z and C, and draws. -/
theorem exec_div_next {s t : State} (h : exec .div s = .next t) :
    ∃ d q r z c, t = (((s.setDraws d).setA q).setH r).setCcr { s.ccr with z := z, c := c } ∧ s.draws ≤ d := by
  have h : execDiv s = _ := h
  unfold execDiv at h
  split at h <;> have h := next_inj h <;> subst h
  · exact ⟨s.draws + 3, _, _, _, _, rfl, Nat.le_add_right _ _⟩
  · exact ⟨s.draws, _, _, _, _, rfl, Nat.le_refl _⟩

theorem exec_stop_next {s t : State} (h : exec .stop s = .next t) : t = (s.setI false).setMode .stopped := by
  have h : execStop s = _ := h
  unfold execStop at h
  split at h
  · exact next_inj h
  · cases h

end Sys2Proof.Machine
end

