-- ==== Sys2Proof/Laws/Fetch.lean ====
section
/-! SUPPORT. Fetching: what each part of the fetch can do when it does not fault. -/

namespace Sys2Proof.Machine

/-- Between two states, only PC and the count of draws differ, and draws are not taken back. -/
def Fetched (s t : State) : Prop := ∃ n pc, s.draws ≤ n ∧ t = (s.setDraws n).setPc pc

theorem Fetched.refl (s : State) : Fetched s s := ⟨s.draws, s.pc, Nat.le_refl _, rfl⟩

theorem Fetched.trans {s t u : State} (h : Fetched s t) (k : Fetched t u) : Fetched s u := by
  obtain ⟨n, pc, hn, rfl⟩ := h
  obtain ⟨m, pc', hm, rfl⟩ := k
  exact ⟨m, pc', Nat.le_trans hn hm, rfl⟩

theorem State.afterRead_draws_le (s : State) (a : Addr) : s.draws ≤ (s.afterRead a).draws := by
  rcases State.afterRead_eq s a with e | e <;> rw [e]
  exact Nat.le_succ _

theorem fetchByte_fetched {s : State} {r : Byte × State} (h : fetchByte s = .ok r) : Fetched s r.2 := by
  simp only [fetchByte, bind_ok, readByte_ok] at h
  obtain ⟨_, ⟨_, rfl⟩, h⟩ := h
  rcases State.afterRead_eq s s.pc with e | e <;> rw [e] at h <;> split at h <;>
    rw [pure_ok] at h <;> subst h
  · exact ⟨s.draws, s.pc + 1, by omega, rfl⟩
  · exact ⟨s.draws + 1, s.pc + 1, by omega, rfl⟩
  · exact ⟨s.draws + 1, s.pc + 1, by omega, rfl⟩
  · exact ⟨s.draws + 1 + 1, s.pc + 1, by omega, rfl⟩

theorem fetchOperands_fetched {sh : Shape} {s : State} {r : Instr × State} (h : fetchOperands sh s = .ok r) :
    Fetched s r.2 := by
  cases sh with
  | zero i => cases h; exact Fetched.refl s
  | one build =>
    simp only [fetchOperands, bind_ok, pure_ok] at h
    obtain ⟨_, h1, rfl⟩ := h
    exact fetchByte_fetched h1
  | two build =>
    simp only [fetchOperands, bind_ok, pure_ok] at h
    obtain ⟨_, h1, _, h2, rfl⟩ := h
    exact (fetchByte_fetched h1).trans (fetchByte_fetched h2)

theorem fetchShape_fetched {s : State} {r : Shape × State} (h : fetchShape s = .ok r) : Fetched s r.2 := by
  simp only [fetchShape, bind_ok] at h
  obtain ⟨⟨b0, t⟩, h1, h⟩ := h
  split at h
  · simp only [bind_ok] at h
    obtain ⟨⟨b1, u⟩, h2, h⟩ := h
    split at h
    · rw [pure_ok] at h; subst h
      exact (fetchByte_fetched h1).trans (fetchByte_fetched h2)
    · cases h
  · split at h
    · rw [pure_ok] at h; subst h
      exact fetchByte_fetched h1
    · cases h

/-- A fetch that does not fault changes PC and the count of draws, and settles the stale bytes it executed. -/
theorem fetchInstr_fetched {s t : State} {i : Instr} (h : fetchInstr s = .ok (i, t)) :
    ∃ u, Fetched s u ∧ t = u.setStale (u.staleBeyond s.pc) := by
  simp only [fetchInstr, bind_ok, pure_ok] at h
  obtain ⟨⟨sh, u⟩, h1, ⟨j, v⟩, h2, h3⟩ := h
  obtain ⟨rfl, rfl⟩ := Prod.mk.inj h3
  exact ⟨v, (fetchShape_fetched h1).trans (fetchOperands_fetched h2), rfl⟩

/-! ## Stale bytes (U8) -/

@[simp] theorem State.mem_staleBeyond (s : State) (start : Addr) (e : StaleByte) :
    e ∈ s.staleBeyond start ↔
      e ∈ s.stale ∧ e.next ≠ start ∧ (s.pc - start).toNat ≤ (e.addr - start).toNat := by
  simp [State.staleBeyond]

theorem State.staleBeyond_sublist (s : State) (start : Addr) : (s.staleBeyond start).Sublist s.stale :=
  List.filter_sublist

/-- No instruction is longer than four bytes (R80). -/
theorem lengthFrom_le (b0 b1 : Byte) : lengthFrom b0 b1 ≤ 4 := by
  have hc : ∀ o : Option Shape, (o.map operandCount).getD 0 ≤ 2 := by
    rintro (_ | _ | _ | _) <;> simp [operandCount]
  unfold lengthFrom
  have h1 := hc (page1 b0)
  have h2 := hc (page2 b1)
  split <;> omega

theorem foldl_max_le {l : List Nat} {n b : Nat} (h : ∀ k ∈ l, k ≤ b) (hn : n ≤ b) : l.foldl max n ≤ b := by
  induction l generalizing n with
  | nil => exact hn
  | cons a l ih =>
    exact ih (fun k hk => h k (List.mem_cons_of_mem _ hk)) (Nat.max_le.mpr ⟨hn, h a List.mem_cons_self⟩)

theorem le_foldl_max {l : List Nat} {n k : Nat} (h : k ∈ l ∨ k ≤ n) : k ≤ l.foldl max n := by
  induction l generalizing n with
  | nil => simpa using h
  | cons a l ih =>
    apply ih
    rcases h with h | h
    · rcases List.mem_cons.mp h with rfl | h
      · exact .inr (Nat.le_max_right _ _)
      · exact .inl h
    · exact .inr (Nat.le_trans h (Nat.le_max_left _ _))

theorem nextLength_le (s t : State) : nextLength s t ≤ 4 := by
  refine foldl_max_le (fun k hk => ?_) (Nat.zero_le 4)
  simp only [List.mem_flatMap, List.mem_map] at hk
  obtain ⟨b0, _, b1, _, rfl⟩ := hk
  exact lengthFrom_le b0 b1

/-- Every reading of the first two bytes at `PCnext` counts towards the length. -/
theorem lengthFrom_le_nextLength {s t : State} {b0 b1 : Byte}
    (h0 : b0 ∈ readings s t [prefixByte, 0xC6] s.pc) (h1 : b1 ∈ readings s t [0xD6] (s.pc + 1)) :
    lengthFrom b0 b1 ≤ nextLength s t :=
  le_foldl_max (.inl (List.mem_flatMap.mpr ⟨b0, h0, List.mem_map.mpr ⟨b1, h1, rfl⟩⟩))

theorem mem_overwritten {s t : State} {e : StaleByte} :
    e ∈ overwritten s t ↔ ∃ k < nextLength s t,
      s.mem.read (s.pc + BitVec.ofNat 16 k).toNat ≠ t.mem.read (s.pc + BitVec.ofNat 16 k).toNat ∧
      e = { next := s.pc, addr := s.pc + BitVec.ofNat 16 k
            old := s.mem.read (s.pc + BitVec.ofNat 16 k).toNat } := by
  simp only [overwritten, List.mem_filterMap, List.mem_range]
  constructor
  · rintro ⟨k, hk, h⟩
    split at h
    · cases h
    · exact ⟨k, hk, ‹_›, (Option.some.inj h).symm⟩
  · rintro ⟨k, hk, hne, rfl⟩
    exact ⟨k, hk, if_neg hne⟩

theorem fill_length {sh : Shape} {l : List Byte} {i : Instr} (h : sh.fill l = .ok (i, [])) :
    l.length = operandCount sh := by
  cases sh <;> rcases l with _ | ⟨a, _ | ⟨b, _ | ⟨c, l⟩⟩⟩ <;> simp_all [Shape.fill, operandCount]

/-- The length of what decodes, from its first two bytes (R82). -/
theorem decode_length {l : List Byte} {i : Instr} (h : decode l = .ok (i, [])) :
    l.length = lengthFrom (l.getD 0 0) (l.getD 1 0) := by
  rcases l with _ | ⟨b0, l⟩
  · cases h
  simp only [decode] at h
  split at h
  · rcases l with _ | ⟨b1, l⟩
    · cases h
    simp only at h
    split at h
    · cases h
    · have := fill_length h
      simp_all [lengthFrom]; omega
  · split at h
    · cases h
    · have := fill_length h
      simp_all [lengthFrom]; omega

end Sys2Proof.Machine
end

