-- ==== Sys2Proof/Laws/PerInstr.lean ====
section
/-! SUPPORT. Statements about every instruction as syntax, one lemma for each constructor of Instr.
EncodedLength: an instruction is 1 to 4 bytes long (30_encoding.md R80). -/

/-- The instruction is 1 to 4 bytes long (R80). -/
def Sys2Proof.Laws.EncodedLength.Statement (i : Sys2Proof.Instr) : Prop :=
  1 ≤ (Sys2Proof.encode i).length ∧ (Sys2Proof.encode i).length ≤ 4

open Sys2Proof
open Sys2Proof.Laws.EncodedLength (Statement)

theorem Sys2Proof.Laws.EncodedLength.mem_length (lo : BitVec 4) (m : MemMode) :
    1 ≤ (encodeMem lo m).length ∧ (encodeMem lo m).length ≤ 4 := by
  cases m <;> simp [encodeMem]

theorem Sys2Proof.Laws.EncodedLength.src_length (lo : BitVec 4) (m : Src) :
    1 ≤ (encodeSrc lo m).length ∧ (encodeSrc lo m).length ≤ 4 := by
  cases m with
  | imm ii => simp [encodeSrc]
  | mem m => exact Sys2Proof.Laws.EncodedLength.mem_length lo m

theorem Sys2Proof.Laws.EncodedLength.jump_length (lo : BitVec 4) (m : JumpMode) :
    1 ≤ (encodeJump lo m).length ∧ (encodeJump lo m).length ≤ 4 := by
  cases m <;> simp [encodeJump]

theorem Sys2Proof.Laws.EncodedLength.rmw_length (lo : BitVec 4) (m : RmwMode) :
    1 ≤ (encodeRmw lo m).length ∧ (encodeRmw lo m).length ≤ 4 := by
  cases m <;> simp [encodeRmw]

theorem Sys2Proof.Laws.EncodedLength.dbnz_length (m : RmwMode) (rr : Byte) :
    Statement (.dbnz m rr) := by
  cases m <;> exact ⟨Nat.le_of_ble_eq_true rfl, Nat.le_of_ble_eq_true rfl⟩

theorem Sys2Proof.Laws.EncodedLength.length_ok {i : Instr}
    (h1 : Nat.ble 1 (encode i).length = true) (h2 : Nat.ble (encode i).length 4 = true) : Statement i :=
  ⟨Nat.le_of_ble_eq_true h1, Nat.le_of_ble_eq_true h2⟩

open Sys2Proof.Laws.EncodedLength (mem_length src_length jump_length rmw_length dbnz_length length_ok)

theorem Sys2Proof.Laws.EncodedLength.lda (m : Src) : Statement (.lda m) :=
  src_length _ m

theorem Sys2Proof.Laws.EncodedLength.ldx (m : Src) : Statement (.ldx m) :=
  src_length _ m

theorem Sys2Proof.Laws.EncodedLength.ldhx (m : Src16) : Statement (.ldhx m) := by
  cases m <;> exact length_ok rfl rfl

theorem Sys2Proof.Laws.EncodedLength.sta (m : MemMode) : Statement (.sta m) :=
  mem_length _ m

theorem Sys2Proof.Laws.EncodedLength.stx (m : MemMode) : Statement (.stx m) :=
  mem_length _ m

theorem Sys2Proof.Laws.EncodedLength.sthx (dd : Byte) : Statement (.sthx dd) :=
  length_ok rfl rfl

theorem Sys2Proof.Laws.EncodedLength.psha : Statement (.psha) :=
  length_ok rfl rfl

theorem Sys2Proof.Laws.EncodedLength.pshh : Statement (.pshh) :=
  length_ok rfl rfl

theorem Sys2Proof.Laws.EncodedLength.pshx : Statement (.pshx) :=
  length_ok rfl rfl

theorem Sys2Proof.Laws.EncodedLength.pula : Statement (.pula) :=
  length_ok rfl rfl

theorem Sys2Proof.Laws.EncodedLength.pulh : Statement (.pulh) :=
  length_ok rfl rfl

theorem Sys2Proof.Laws.EncodedLength.pulx : Statement (.pulx) :=
  length_ok rfl rfl

theorem Sys2Proof.Laws.EncodedLength.tap : Statement (.tap) :=
  length_ok rfl rfl

theorem Sys2Proof.Laws.EncodedLength.tpa : Statement (.tpa) :=
  length_ok rfl rfl

theorem Sys2Proof.Laws.EncodedLength.tax : Statement (.tax) :=
  length_ok rfl rfl

theorem Sys2Proof.Laws.EncodedLength.txa : Statement (.txa) :=
  length_ok rfl rfl

theorem Sys2Proof.Laws.EncodedLength.txs : Statement (.txs) :=
  length_ok rfl rfl

theorem Sys2Proof.Laws.EncodedLength.tsx : Statement (.tsx) :=
  length_ok rfl rfl

theorem Sys2Proof.Laws.EncodedLength.mov (m : MovMode) : Statement (.mov m) := by
  cases m <;> exact length_ok rfl rfl

theorem Sys2Proof.Laws.EncodedLength.add (m : Src) : Statement (.add m) :=
  src_length _ m

theorem Sys2Proof.Laws.EncodedLength.adc (m : Src) : Statement (.adc m) :=
  src_length _ m

theorem Sys2Proof.Laws.EncodedLength.sub (m : Src) : Statement (.sub m) :=
  src_length _ m

theorem Sys2Proof.Laws.EncodedLength.sbc (m : Src) : Statement (.sbc m) :=
  src_length _ m

theorem Sys2Proof.Laws.EncodedLength.mul : Statement (.mul) :=
  length_ok rfl rfl

theorem Sys2Proof.Laws.EncodedLength.div : Statement (.div) :=
  length_ok rfl rfl

theorem Sys2Proof.Laws.EncodedLength.inc (m : RmwMode) : Statement (.inc m) :=
  rmw_length _ m

theorem Sys2Proof.Laws.EncodedLength.inca : Statement (.inca) :=
  length_ok rfl rfl

theorem Sys2Proof.Laws.EncodedLength.incx : Statement (.incx) :=
  length_ok rfl rfl

theorem Sys2Proof.Laws.EncodedLength.dec (m : RmwMode) : Statement (.dec m) :=
  rmw_length _ m

theorem Sys2Proof.Laws.EncodedLength.deca : Statement (.deca) :=
  length_ok rfl rfl

theorem Sys2Proof.Laws.EncodedLength.decx : Statement (.decx) :=
  length_ok rfl rfl

theorem Sys2Proof.Laws.EncodedLength.com (m : RmwMode) : Statement (.com m) :=
  rmw_length _ m

theorem Sys2Proof.Laws.EncodedLength.coma : Statement (.coma) :=
  length_ok rfl rfl

theorem Sys2Proof.Laws.EncodedLength.comx : Statement (.comx) :=
  length_ok rfl rfl

theorem Sys2Proof.Laws.EncodedLength.neg (m : RmwMode) : Statement (.neg m) :=
  rmw_length _ m

theorem Sys2Proof.Laws.EncodedLength.nega : Statement (.nega) :=
  length_ok rfl rfl

theorem Sys2Proof.Laws.EncodedLength.negx : Statement (.negx) :=
  length_ok rfl rfl

theorem Sys2Proof.Laws.EncodedLength.cmp (m : Src) : Statement (.cmp m) :=
  src_length _ m

theorem Sys2Proof.Laws.EncodedLength.cpx (m : Src) : Statement (.cpx m) :=
  src_length _ m

theorem Sys2Proof.Laws.EncodedLength.cphx (m : Src16) : Statement (.cphx m) := by
  cases m <;> exact length_ok rfl rfl

theorem Sys2Proof.Laws.EncodedLength.clr (m : RmwMode) : Statement (.clr m) :=
  rmw_length _ m

theorem Sys2Proof.Laws.EncodedLength.clra : Statement (.clra) :=
  length_ok rfl rfl

theorem Sys2Proof.Laws.EncodedLength.clrx : Statement (.clrx) :=
  length_ok rfl rfl

theorem Sys2Proof.Laws.EncodedLength.clrh : Statement (.clrh) :=
  length_ok rfl rfl

theorem Sys2Proof.Laws.EncodedLength.tst (m : RmwMode) : Statement (.tst m) :=
  rmw_length _ m

theorem Sys2Proof.Laws.EncodedLength.tsta : Statement (.tsta) :=
  length_ok rfl rfl

theorem Sys2Proof.Laws.EncodedLength.tstx : Statement (.tstx) :=
  length_ok rfl rfl

theorem Sys2Proof.Laws.EncodedLength.ais (ii : Byte) : Statement (.ais ii) :=
  length_ok rfl rfl

theorem Sys2Proof.Laws.EncodedLength.aix (ii : Byte) : Statement (.aix ii) :=
  length_ok rfl rfl

theorem Sys2Proof.Laws.EncodedLength.and (m : Src) : Statement (.and m) :=
  src_length _ m

theorem Sys2Proof.Laws.EncodedLength.ora (m : Src) : Statement (.ora m) :=
  src_length _ m

theorem Sys2Proof.Laws.EncodedLength.eor (m : Src) : Statement (.eor m) :=
  src_length _ m

theorem Sys2Proof.Laws.EncodedLength.bit (m : Src) : Statement (.bit m) :=
  src_length _ m

theorem Sys2Proof.Laws.EncodedLength.bclr (n : BitNum) (dd : Byte) : Statement (.bclr n dd) :=
  length_ok rfl rfl

theorem Sys2Proof.Laws.EncodedLength.bset (n : BitNum) (dd : Byte) : Statement (.bset n dd) :=
  length_ok rfl rfl

theorem Sys2Proof.Laws.EncodedLength.clc : Statement (.clc) :=
  length_ok rfl rfl

theorem Sys2Proof.Laws.EncodedLength.sec : Statement (.sec) :=
  length_ok rfl rfl

theorem Sys2Proof.Laws.EncodedLength.cli : Statement (.cli) :=
  length_ok rfl rfl

theorem Sys2Proof.Laws.EncodedLength.sei : Statement (.sei) :=
  length_ok rfl rfl

theorem Sys2Proof.Laws.EncodedLength.lsl (m : RmwMode) : Statement (.lsl m) :=
  rmw_length _ m

theorem Sys2Proof.Laws.EncodedLength.lsla : Statement (.lsla) :=
  length_ok rfl rfl

theorem Sys2Proof.Laws.EncodedLength.lslx : Statement (.lslx) :=
  length_ok rfl rfl

theorem Sys2Proof.Laws.EncodedLength.asl (m : RmwMode) : Statement (.asl m) :=
  rmw_length _ m

theorem Sys2Proof.Laws.EncodedLength.asla : Statement (.asla) :=
  length_ok rfl rfl

theorem Sys2Proof.Laws.EncodedLength.aslx : Statement (.aslx) :=
  length_ok rfl rfl

theorem Sys2Proof.Laws.EncodedLength.asr (m : RmwMode) : Statement (.asr m) :=
  rmw_length _ m

theorem Sys2Proof.Laws.EncodedLength.asra : Statement (.asra) :=
  length_ok rfl rfl

theorem Sys2Proof.Laws.EncodedLength.asrx : Statement (.asrx) :=
  length_ok rfl rfl

theorem Sys2Proof.Laws.EncodedLength.lsr (m : RmwMode) : Statement (.lsr m) :=
  rmw_length _ m

theorem Sys2Proof.Laws.EncodedLength.lsra : Statement (.lsra) :=
  length_ok rfl rfl

theorem Sys2Proof.Laws.EncodedLength.lsrx : Statement (.lsrx) :=
  length_ok rfl rfl

theorem Sys2Proof.Laws.EncodedLength.rol (m : RmwMode) : Statement (.rol m) :=
  rmw_length _ m

theorem Sys2Proof.Laws.EncodedLength.rola : Statement (.rola) :=
  length_ok rfl rfl

theorem Sys2Proof.Laws.EncodedLength.rolx : Statement (.rolx) :=
  length_ok rfl rfl

theorem Sys2Proof.Laws.EncodedLength.ror (m : RmwMode) : Statement (.ror m) :=
  rmw_length _ m

theorem Sys2Proof.Laws.EncodedLength.rora : Statement (.rora) :=
  length_ok rfl rfl

theorem Sys2Proof.Laws.EncodedLength.rorx : Statement (.rorx) :=
  length_ok rfl rfl

theorem Sys2Proof.Laws.EncodedLength.bcc (rr : Byte) : Statement (.bcc rr) :=
  length_ok rfl rfl

theorem Sys2Proof.Laws.EncodedLength.bcs (rr : Byte) : Statement (.bcs rr) :=
  length_ok rfl rfl

theorem Sys2Proof.Laws.EncodedLength.bhcc (rr : Byte) : Statement (.bhcc rr) :=
  length_ok rfl rfl

theorem Sys2Proof.Laws.EncodedLength.bhcs (rr : Byte) : Statement (.bhcs rr) :=
  length_ok rfl rfl

theorem Sys2Proof.Laws.EncodedLength.bhi (rr : Byte) : Statement (.bhi rr) :=
  length_ok rfl rfl

theorem Sys2Proof.Laws.EncodedLength.bhs (rr : Byte) : Statement (.bhs rr) :=
  length_ok rfl rfl

theorem Sys2Proof.Laws.EncodedLength.blo (rr : Byte) : Statement (.blo rr) :=
  length_ok rfl rfl

theorem Sys2Proof.Laws.EncodedLength.bls (rr : Byte) : Statement (.bls rr) :=
  length_ok rfl rfl

theorem Sys2Proof.Laws.EncodedLength.bpl (rr : Byte) : Statement (.bpl rr) :=
  length_ok rfl rfl

theorem Sys2Proof.Laws.EncodedLength.bmi (rr : Byte) : Statement (.bmi rr) :=
  length_ok rfl rfl

theorem Sys2Proof.Laws.EncodedLength.beq (rr : Byte) : Statement (.beq rr) :=
  length_ok rfl rfl

theorem Sys2Proof.Laws.EncodedLength.bne (rr : Byte) : Statement (.bne rr) :=
  length_ok rfl rfl

theorem Sys2Proof.Laws.EncodedLength.bge (rr : Byte) : Statement (.bge rr) :=
  length_ok rfl rfl

theorem Sys2Proof.Laws.EncodedLength.bgt (rr : Byte) : Statement (.bgt rr) :=
  length_ok rfl rfl

theorem Sys2Proof.Laws.EncodedLength.ble (rr : Byte) : Statement (.ble rr) :=
  length_ok rfl rfl

theorem Sys2Proof.Laws.EncodedLength.blt (rr : Byte) : Statement (.blt rr) :=
  length_ok rfl rfl

theorem Sys2Proof.Laws.EncodedLength.bih (rr : Byte) : Statement (.bih rr) :=
  length_ok rfl rfl

theorem Sys2Proof.Laws.EncodedLength.bil (rr : Byte) : Statement (.bil rr) :=
  length_ok rfl rfl

theorem Sys2Proof.Laws.EncodedLength.bmc (rr : Byte) : Statement (.bmc rr) :=
  length_ok rfl rfl

theorem Sys2Proof.Laws.EncodedLength.bms (rr : Byte) : Statement (.bms rr) :=
  length_ok rfl rfl

theorem Sys2Proof.Laws.EncodedLength.bra (rr : Byte) : Statement (.bra rr) :=
  length_ok rfl rfl

theorem Sys2Proof.Laws.EncodedLength.brn (rr : Byte) : Statement (.brn rr) :=
  length_ok rfl rfl

theorem Sys2Proof.Laws.EncodedLength.brclr (n : BitNum) (dd rr : Byte) : Statement (.brclr n dd rr) :=
  length_ok rfl rfl

theorem Sys2Proof.Laws.EncodedLength.brset (n : BitNum) (dd rr : Byte) : Statement (.brset n dd rr) :=
  length_ok rfl rfl

theorem Sys2Proof.Laws.EncodedLength.cbeq (m : CbeqMode) (rr : Byte) : Statement (.cbeq m rr) := by
  cases m <;> exact length_ok rfl rfl

theorem Sys2Proof.Laws.EncodedLength.cbeqa (ii rr : Byte) : Statement (.cbeqa ii rr) :=
  length_ok rfl rfl

theorem Sys2Proof.Laws.EncodedLength.cbeqx (ii rr : Byte) : Statement (.cbeqx ii rr) :=
  length_ok rfl rfl

theorem Sys2Proof.Laws.EncodedLength.dbnz (m : RmwMode) (rr : Byte) : Statement (.dbnz m rr) :=
  dbnz_length m rr

theorem Sys2Proof.Laws.EncodedLength.dbnza (rr : Byte) : Statement (.dbnza rr) :=
  length_ok rfl rfl

theorem Sys2Proof.Laws.EncodedLength.dbnzx (rr : Byte) : Statement (.dbnzx rr) :=
  length_ok rfl rfl

theorem Sys2Proof.Laws.EncodedLength.jmp (m : JumpMode) : Statement (.jmp m) :=
  jump_length _ m

theorem Sys2Proof.Laws.EncodedLength.jsr (m : JumpMode) : Statement (.jsr m) :=
  jump_length _ m

theorem Sys2Proof.Laws.EncodedLength.bsr (rr : Byte) : Statement (.bsr rr) :=
  length_ok rfl rfl

theorem Sys2Proof.Laws.EncodedLength.rts : Statement (.rts) :=
  length_ok rfl rfl

theorem Sys2Proof.Laws.EncodedLength.swi : Statement (.swi) :=
  length_ok rfl rfl

theorem Sys2Proof.Laws.EncodedLength.rti : Statement (.rti) :=
  length_ok rfl rfl

theorem Sys2Proof.Laws.EncodedLength.daa : Statement (.daa) :=
  length_ok rfl rfl

theorem Sys2Proof.Laws.EncodedLength.nsa : Statement (.nsa) :=
  length_ok rfl rfl

theorem Sys2Proof.Laws.EncodedLength.rsp : Statement (.rsp) :=
  length_ok rfl rfl

theorem Sys2Proof.Laws.EncodedLength.nop : Statement (.nop) :=
  length_ok rfl rfl

theorem Sys2Proof.Laws.EncodedLength.stop : Statement (.stop) :=
  length_ok rfl rfl

theorem Sys2Proof.Laws.EncodedLength.wait : Statement (.wait) :=
  length_ok rfl rfl
end

