-- ==== Sys2Proof/Tests/Slice0.lean ====
section
/-! SUPPORT. Tests of the model: the well-formedness check, decoding by words written out from the opcode
table, single steps against the vectors of spec/95_test_vectors.md, interrupts and reset, and for every
obligation with hypotheses a concrete witness of them. -/

namespace Sys2Proof.Tests

set_option Elab.async false

open Sys2Proof Sys2Proof.Machine

/-! ## Well-formedness: the five second spellings are refused (R104) -/

theorem test_wellFormed_refuses_second_spellings :
    ¬ (Instr.asl .ix).WellFormed ∧ ¬ Instr.asla.WellFormed ∧ ¬ Instr.aslx.WellFormed ∧
    ¬ (Instr.bhs 0x10).WellFormed ∧ ¬ (Instr.blo 0x10).WellFormed := by decide

theorem test_wellFormed_accepts_their_names :
    (Instr.lsl .ix).WellFormed ∧ Instr.lsla.WellFormed ∧ Instr.lslx.WellFormed ∧
    (Instr.bcc 0x10).WellFormed ∧ (Instr.bcs 0x10).WellFormed := by decide

/-! ## Decoding: the bytes are those of the `bytes` column of spec/opcode_table.json, operand bytes filled in -/

/-- Each list of bytes decodes to its instruction, with nothing left over, and is what it encodes to. -/
def decodes (rows : List (List Byte × Instr)) : Bool :=
  rows.all fun r =>
    (match decode r.1 with
      | .ok (i, []) => decide (i = r.2)
      | _ => false) && decide (encode r.2 = r.1)

theorem test_decode_accumulator_1 : decodes [
    ([0xA0, 0xA5], .sub (.imm 0xA5)), ([0xB0, 0x12], .sub (.mem (.dir 0x12))), ([0xC0, 0x81, 0x23], .sub (.mem (.ext 0x8123))),
    ([0xD0, 0xFE, 0x34], .sub (.mem (.ix2 0xFE34))), ([0xE0, 0x34], .sub (.mem (.ix1 0x34))), ([0xF0], .sub (.mem .ix)),
    ([0x9E, 0xE0, 0x34], .sub (.mem (.sp1 0x34))), ([0x9E, 0xD0, 0xFE, 0x34], .sub (.mem (.sp2 0xFE34))), ([0xA1, 0xA5], .cmp (.imm 0xA5)),
    ([0xB1, 0x12], .cmp (.mem (.dir 0x12))), ([0xC1, 0x81, 0x23], .cmp (.mem (.ext 0x8123))), ([0xD1, 0xFE, 0x34], .cmp (.mem (.ix2 0xFE34))),
    ([0xE1, 0x34], .cmp (.mem (.ix1 0x34))), ([0xF1], .cmp (.mem .ix)), ([0x9E, 0xE1, 0x34], .cmp (.mem (.sp1 0x34))),
    ([0x9E, 0xD1, 0xFE, 0x34], .cmp (.mem (.sp2 0xFE34))), ([0xA2, 0xA5], .sbc (.imm 0xA5)), ([0xB2, 0x12], .sbc (.mem (.dir 0x12))),
    ([0xC2, 0x81, 0x23], .sbc (.mem (.ext 0x8123))), ([0xD2, 0xFE, 0x34], .sbc (.mem (.ix2 0xFE34))), ([0xE2, 0x34], .sbc (.mem (.ix1 0x34))),
    ([0xF2], .sbc (.mem .ix)), ([0x9E, 0xE2, 0x34], .sbc (.mem (.sp1 0x34))), ([0x9E, 0xD2, 0xFE, 0x34], .sbc (.mem (.sp2 0xFE34))),
    ([0xA3, 0xA5], .cpx (.imm 0xA5)), ([0xB3, 0x12], .cpx (.mem (.dir 0x12))), ([0xC3, 0x81, 0x23], .cpx (.mem (.ext 0x8123))),
    ([0xD3, 0xFE, 0x34], .cpx (.mem (.ix2 0xFE34))), ([0xE3, 0x34], .cpx (.mem (.ix1 0x34))), ([0xF3], .cpx (.mem .ix)),
    ([0x9E, 0xE3, 0x34], .cpx (.mem (.sp1 0x34))), ([0x9E, 0xD3, 0xFE, 0x34], .cpx (.mem (.sp2 0xFE34)))] = true := by
  decide +kernel

theorem test_decode_accumulator_2 : decodes [
    ([0xA4, 0xA5], .and (.imm 0xA5)), ([0xB4, 0x12], .and (.mem (.dir 0x12))), ([0xC4, 0x81, 0x23], .and (.mem (.ext 0x8123))),
    ([0xD4, 0xFE, 0x34], .and (.mem (.ix2 0xFE34))), ([0xE4, 0x34], .and (.mem (.ix1 0x34))), ([0xF4], .and (.mem .ix)),
    ([0x9E, 0xE4, 0x34], .and (.mem (.sp1 0x34))), ([0x9E, 0xD4, 0xFE, 0x34], .and (.mem (.sp2 0xFE34))), ([0xA5, 0xA5], .bit (.imm 0xA5)),
    ([0xB5, 0x12], .bit (.mem (.dir 0x12))), ([0xC5, 0x81, 0x23], .bit (.mem (.ext 0x8123))), ([0xD5, 0xFE, 0x34], .bit (.mem (.ix2 0xFE34))),
    ([0xE5, 0x34], .bit (.mem (.ix1 0x34))), ([0xF5], .bit (.mem .ix)), ([0x9E, 0xE5, 0x34], .bit (.mem (.sp1 0x34))),
    ([0x9E, 0xD5, 0xFE, 0x34], .bit (.mem (.sp2 0xFE34))), ([0xA6, 0xA5], .lda (.imm 0xA5)), ([0xB6, 0x12], .lda (.mem (.dir 0x12))),
    ([0xC6, 0x81, 0x23], .lda (.mem (.ext 0x8123))), ([0xD6, 0xFE, 0x34], .lda (.mem (.ix2 0xFE34))), ([0xE6, 0x34], .lda (.mem (.ix1 0x34))),
    ([0xF6], .lda (.mem .ix)), ([0x9E, 0xE6, 0x34], .lda (.mem (.sp1 0x34))), ([0x9E, 0xD6, 0xFE, 0x34], .lda (.mem (.sp2 0xFE34))),
    ([0xA8, 0xA5], .eor (.imm 0xA5)), ([0xB8, 0x12], .eor (.mem (.dir 0x12))), ([0xC8, 0x81, 0x23], .eor (.mem (.ext 0x8123))),
    ([0xD8, 0xFE, 0x34], .eor (.mem (.ix2 0xFE34))), ([0xE8, 0x34], .eor (.mem (.ix1 0x34))), ([0xF8], .eor (.mem .ix)),
    ([0x9E, 0xE8, 0x34], .eor (.mem (.sp1 0x34))), ([0x9E, 0xD8, 0xFE, 0x34], .eor (.mem (.sp2 0xFE34)))] = true := by
  decide +kernel

theorem test_decode_accumulator_3 : decodes [
    ([0xA9, 0xA5], .adc (.imm 0xA5)), ([0xB9, 0x12], .adc (.mem (.dir 0x12))), ([0xC9, 0x81, 0x23], .adc (.mem (.ext 0x8123))),
    ([0xD9, 0xFE, 0x34], .adc (.mem (.ix2 0xFE34))), ([0xE9, 0x34], .adc (.mem (.ix1 0x34))), ([0xF9], .adc (.mem .ix)),
    ([0x9E, 0xE9, 0x34], .adc (.mem (.sp1 0x34))), ([0x9E, 0xD9, 0xFE, 0x34], .adc (.mem (.sp2 0xFE34))), ([0xAA, 0xA5], .ora (.imm 0xA5)),
    ([0xBA, 0x12], .ora (.mem (.dir 0x12))), ([0xCA, 0x81, 0x23], .ora (.mem (.ext 0x8123))), ([0xDA, 0xFE, 0x34], .ora (.mem (.ix2 0xFE34))),
    ([0xEA, 0x34], .ora (.mem (.ix1 0x34))), ([0xFA], .ora (.mem .ix)), ([0x9E, 0xEA, 0x34], .ora (.mem (.sp1 0x34))),
    ([0x9E, 0xDA, 0xFE, 0x34], .ora (.mem (.sp2 0xFE34))), ([0xAB, 0xA5], .add (.imm 0xA5)), ([0xBB, 0x12], .add (.mem (.dir 0x12))),
    ([0xCB, 0x81, 0x23], .add (.mem (.ext 0x8123))), ([0xDB, 0xFE, 0x34], .add (.mem (.ix2 0xFE34))), ([0xEB, 0x34], .add (.mem (.ix1 0x34))),
    ([0xFB], .add (.mem .ix)), ([0x9E, 0xEB, 0x34], .add (.mem (.sp1 0x34))), ([0x9E, 0xDB, 0xFE, 0x34], .add (.mem (.sp2 0xFE34))),
    ([0xAE, 0xA5], .ldx (.imm 0xA5)), ([0xBE, 0x12], .ldx (.mem (.dir 0x12))), ([0xCE, 0x81, 0x23], .ldx (.mem (.ext 0x8123))),
    ([0xDE, 0xFE, 0x34], .ldx (.mem (.ix2 0xFE34))), ([0xEE, 0x34], .ldx (.mem (.ix1 0x34))), ([0xFE], .ldx (.mem .ix)),
    ([0x9E, 0xEE, 0x34], .ldx (.mem (.sp1 0x34))), ([0x9E, 0xDE, 0xFE, 0x34], .ldx (.mem (.sp2 0xFE34)))] = true := by
  decide +kernel

theorem test_decode_stores_and_jumps_1 : decodes [
    ([0xB7, 0x12], .sta (.dir 0x12)), ([0xC7, 0x81, 0x23], .sta (.ext 0x8123)), ([0xD7, 0xFE, 0x34], .sta (.ix2 0xFE34)),
    ([0xE7, 0x34], .sta (.ix1 0x34)), ([0xF7], .sta .ix), ([0x9E, 0xE7, 0x34], .sta (.sp1 0x34)),
    ([0x9E, 0xD7, 0xFE, 0x34], .sta (.sp2 0xFE34)), ([0xBF, 0x12], .stx (.dir 0x12)), ([0xCF, 0x81, 0x23], .stx (.ext 0x8123)),
    ([0xDF, 0xFE, 0x34], .stx (.ix2 0xFE34)), ([0xEF, 0x34], .stx (.ix1 0x34)), ([0xFF], .stx .ix),
    ([0x9E, 0xEF, 0x34], .stx (.sp1 0x34)), ([0x9E, 0xDF, 0xFE, 0x34], .stx (.sp2 0xFE34)), ([0xBC, 0x12], .jmp (.dir 0x12)),
    ([0xCC, 0x81, 0x23], .jmp (.ext 0x8123)), ([0xDC, 0xFE, 0x34], .jmp (.ix2 0xFE34)), ([0xEC, 0x34], .jmp (.ix1 0x34)),
    ([0xFC], .jmp .ix), ([0xBD, 0x12], .jsr (.dir 0x12)), ([0xCD, 0x81, 0x23], .jsr (.ext 0x8123)),
    ([0xDD, 0xFE, 0x34], .jsr (.ix2 0xFE34)), ([0xED, 0x34], .jsr (.ix1 0x34)), ([0xFD], .jsr .ix),
    ([0xA7, 0xA5], .ais 0xA5), ([0xAF, 0xA5], .aix 0xA5), ([0xAD, 0xF6], .bsr 0xF6),
    ([0x35, 0x12], .sthx 0x12), ([0x45, 0x80, 0x01], .ldhx (.imm 0x8001)), ([0x55, 0x12], .ldhx (.dir 0x12)),
    ([0x65, 0x80, 0x01], .cphx (.imm 0x8001)), ([0x75, 0x12], .cphx (.dir 0x12))] = true := by
  decide +kernel

theorem test_decode_stores_and_jumps_2 : decodes [
    ([0x4E, 0x12, 0x13], .mov (.dd 0x12 0x13)), ([0x5E, 0x12], .mov (.dixPlus 0x12)), ([0x6E, 0xA5, 0x12], .mov (.imd 0xA5 0x12)),
    ([0x7E, 0x12], .mov (.ixPlusD 0x12))] = true := by
  decide +kernel

theorem test_decode_read_modify_write_1 : decodes [
    ([0x30, 0x12], .neg (.dir 0x12)), ([0x60, 0x34], .neg (.ix1 0x34)), ([0x70], .neg .ix),
    ([0x9E, 0x60, 0x34], .neg (.sp1 0x34)), ([0x33, 0x12], .com (.dir 0x12)), ([0x63, 0x34], .com (.ix1 0x34)),
    ([0x73], .com .ix), ([0x9E, 0x63, 0x34], .com (.sp1 0x34)), ([0x34, 0x12], .lsr (.dir 0x12)),
    ([0x64, 0x34], .lsr (.ix1 0x34)), ([0x74], .lsr .ix), ([0x9E, 0x64, 0x34], .lsr (.sp1 0x34)),
    ([0x36, 0x12], .ror (.dir 0x12)), ([0x66, 0x34], .ror (.ix1 0x34)), ([0x76], .ror .ix),
    ([0x9E, 0x66, 0x34], .ror (.sp1 0x34)), ([0x37, 0x12], .asr (.dir 0x12)), ([0x67, 0x34], .asr (.ix1 0x34)),
    ([0x77], .asr .ix), ([0x9E, 0x67, 0x34], .asr (.sp1 0x34)), ([0x38, 0x12], .lsl (.dir 0x12)),
    ([0x68, 0x34], .lsl (.ix1 0x34)), ([0x78], .lsl .ix), ([0x9E, 0x68, 0x34], .lsl (.sp1 0x34)),
    ([0x39, 0x12], .rol (.dir 0x12)), ([0x69, 0x34], .rol (.ix1 0x34)), ([0x79], .rol .ix),
    ([0x9E, 0x69, 0x34], .rol (.sp1 0x34)), ([0x3A, 0x12], .dec (.dir 0x12)), ([0x6A, 0x34], .dec (.ix1 0x34)),
    ([0x7A], .dec .ix), ([0x9E, 0x6A, 0x34], .dec (.sp1 0x34))] = true := by
  decide +kernel

theorem test_decode_read_modify_write_2 : decodes [
    ([0x3C, 0x12], .inc (.dir 0x12)), ([0x6C, 0x34], .inc (.ix1 0x34)), ([0x7C], .inc .ix),
    ([0x9E, 0x6C, 0x34], .inc (.sp1 0x34)), ([0x3D, 0x12], .tst (.dir 0x12)), ([0x6D, 0x34], .tst (.ix1 0x34)),
    ([0x7D], .tst .ix), ([0x9E, 0x6D, 0x34], .tst (.sp1 0x34)), ([0x3F, 0x12], .clr (.dir 0x12)),
    ([0x6F, 0x34], .clr (.ix1 0x34)), ([0x7F], .clr .ix), ([0x9E, 0x6F, 0x34], .clr (.sp1 0x34))] = true := by
  decide +kernel

theorem test_decode_register_forms : decodes [
    ([0x40], .nega), ([0x50], .negx), ([0x43], .coma),
    ([0x53], .comx), ([0x44], .lsra), ([0x54], .lsrx),
    ([0x46], .rora), ([0x56], .rorx), ([0x47], .asra),
    ([0x57], .asrx), ([0x48], .lsla), ([0x58], .lslx),
    ([0x49], .rola), ([0x59], .rolx), ([0x4A], .deca),
    ([0x5A], .decx), ([0x4C], .inca), ([0x5C], .incx),
    ([0x4D], .tsta), ([0x5D], .tstx), ([0x4F], .clra),
    ([0x5F], .clrx), ([0x8C], .clrh), ([0x42], .mul),
    ([0x52], .div), ([0x62], .nsa), ([0x72], .daa)] = true := by
  decide +kernel

theorem test_decode_compare_and_decrement_branches : decodes [
    ([0x31, 0x12, 0xF6], .cbeq (.dir 0x12) 0xF6), ([0x61, 0x34, 0xF6], .cbeq (.ix1Plus 0x34) 0xF6), ([0x71, 0xF6], .cbeq .ixPlus 0xF6),
    ([0x9E, 0x61, 0x34, 0xF6], .cbeq (.sp1 0x34) 0xF6), ([0x41, 0xA5, 0xF6], .cbeqa 0xA5 0xF6), ([0x51, 0xA5, 0xF6], .cbeqx 0xA5 0xF6),
    ([0x3B, 0x12, 0xF6], .dbnz (.dir 0x12) 0xF6), ([0x6B, 0x34, 0xF6], .dbnz (.ix1 0x34) 0xF6), ([0x7B, 0xF6], .dbnz .ix 0xF6),
    ([0x9E, 0x6B, 0x34, 0xF6], .dbnz (.sp1 0x34) 0xF6), ([0x4B, 0xF6], .dbnza 0xF6), ([0x5B, 0xF6], .dbnzx 0xF6)] = true := by
  decide +kernel

theorem test_decode_bits : decodes [
    ([0x00, 0x12, 0xF6], .brset 0 0x12 0xF6), ([0x06, 0x12, 0xF6], .brset 3 0x12 0xF6), ([0x0E, 0x12, 0xF6], .brset 7 0x12 0xF6),
    ([0x01, 0x12, 0xF6], .brclr 0 0x12 0xF6), ([0x07, 0x12, 0xF6], .brclr 3 0x12 0xF6), ([0x0F, 0x12, 0xF6], .brclr 7 0x12 0xF6),
    ([0x10, 0x12], .bset 0 0x12), ([0x16, 0x12], .bset 3 0x12), ([0x1E, 0x12], .bset 7 0x12),
    ([0x11, 0x12], .bclr 0 0x12), ([0x17, 0x12], .bclr 3 0x12), ([0x1F, 0x12], .bclr 7 0x12)] = true := by
  decide +kernel

theorem test_decode_branches : decodes [
    ([0x20, 0xF6], .bra 0xF6), ([0x21, 0xF6], .brn 0xF6), ([0x22, 0xF6], .bhi 0xF6),
    ([0x23, 0xF6], .bls 0xF6), ([0x24, 0xF6], .bcc 0xF6), ([0x25, 0xF6], .bcs 0xF6),
    ([0x26, 0xF6], .bne 0xF6), ([0x27, 0xF6], .beq 0xF6), ([0x28, 0xF6], .bhcc 0xF6),
    ([0x29, 0xF6], .bhcs 0xF6), ([0x2A, 0xF6], .bpl 0xF6), ([0x2B, 0xF6], .bmi 0xF6),
    ([0x2C, 0xF6], .bmc 0xF6), ([0x2D, 0xF6], .bms 0xF6), ([0x2E, 0xF6], .bil 0xF6),
    ([0x2F, 0xF6], .bih 0xF6), ([0x90, 0xF6], .bge 0xF6), ([0x91, 0xF6], .blt 0xF6),
    ([0x92, 0xF6], .bgt 0xF6), ([0x93, 0xF6], .ble 0xF6)] = true := by
  decide +kernel

theorem test_decode_inherent : decodes [
    ([0x80], .rti), ([0x81], .rts), ([0x83], .swi),
    ([0x84], .tap), ([0x85], .tpa), ([0x86], .pula),
    ([0x87], .psha), ([0x88], .pulx), ([0x89], .pshx),
    ([0x8A], .pulh), ([0x8B], .pshh), ([0x8E], .stop),
    ([0x8F], .wait), ([0x94], .txs), ([0x95], .tsx),
    ([0x97], .tax), ([0x98], .clc), ([0x99], .sec),
    ([0x9A], .cli), ([0x9B], .sei), ([0x9C], .rsp),
    ([0x9D], .nop), ([0x9F], .txa)] = true := by
  decide +kernel

/-- The second spellings have the bytes of the rows of their own mnemonics (R104). -/
theorem test_encode_second_spellings :
    encode (.asl (.dir 0x12)) = [0x38, 0x12] ∧ encode (.asl (.ix1 0x34)) = [0x68, 0x34] ∧
    encode (.asl .ix) = [0x78] ∧ encode (.asl (.sp1 0x34)) = [0x9E, 0x68, 0x34] ∧ encode .asla = [0x48] ∧
    encode .aslx = [0x58] ∧ encode (.bhs 0xF6) = [0x24, 0xF6] ∧ encode (.blo 0xF6) = [0x25, 0xF6] := by decide

/-- R100: illegal first bytes and illegal second bytes. -/
theorem test_decode_illegal :
    decode [0x32] = .error (.illegalOpcode 0x32) ∧ decode [0x8D, 0x00] = .error (.illegalOpcode 0x8D) ∧
    decode [0x9E, 0x9E] = .error (.illegalPage2 0x9E) ∧ decode [0x9E, 0xA6, 0x00] = .error (.illegalPage2 0xA6) ∧
    decode [0x9E] = .error .truncated ∧ decode [0xC6, 0x12] = .error .truncated := by decide +kernel

/-- The table's words, and a page-2 word with its bits numbered from the first byte. -/
theorem test_decodeTableWord :
    decodeTableWord 8 0xA6 = some (.lda (.imm 0x00)) ∧ decodeTableWord 8 0x0F = some (.brclr 7 0x00 0x00) ∧
    decodeTableWord 16 0x9ED6 = some (.lda (.mem (.sp2 0x0000))) ∧
    decodeTableWord 16 0xD69E = some (.lda (.mem (.sp2 0x0000))) ∧
    decodeTableWord 16 0x9E6B = some (.dbnz (.sp1 0x00) 0x00) ∧ decodeTableWord 8 0x82 = none ∧
    decodeTableWord 16 0x9E9E = none := by decide +kernel

/-! ## Single steps: the vectors of spec/95_test_vectors.md, part 2 -/

/-- A start or end state: registers, SP, PC and flags; everything else as after reset. -/
def st (a x h : Byte) (sp pc : Addr) (f : Ccr) : State :=
  { State.reset with a := a, x := x, h := h, sp := sp, pc := pc, ccr := f }

/-- The six flags V HC I N Z C, each 0 or 1. -/
def fl (v hc i n z c : Nat) : Ccr :=
  { v := v == 1, hc := hc == 1, i := i == 1, n := n == 1, z := z == 1, c := c == 1 }

/-- The state with bytes of memory set. -/
def poke (cells : List (Nat × Byte)) (s : State) : State :=
  { s with mem := cells.foldl (fun m c => Memory.write m c.1 c.2) s.mem }

/-- The instruction's bytes at PC, the start bytes of memory, and one sample of the environment that gives
the pin level of the state. -/
def ready (bytes : List Byte) (s : State) (cells : List (Nat × Byte)) : State :=
  { poke cells s with
    mem := Memory.load (poke cells s).mem s.pc bytes
    inputs := [{ resetRequested := false, irqPin := s.irqPin, raised := [], withdrawn := [] }] }

/-- One step from `s` gives `t` with the bytes written, the sample consumed and the cycles counted. -/
def vector (bytes : List Byte) (s : State) (cells : List (Nat × Byte)) (t : State) (writes : List (Nat × Byte))
    (cycles : Nat) : Bool :=
  match step (ready bytes s cells) with
  | .next u => decide (u = poke writes { t with mem := (ready bytes s cells).mem, cycles := cycles })
  | _ => false

/-- As `vector`, but V is free and one value is drawn. -/
def daaVector (bytes : List Byte) (s : State) (cells : List (Nat × Byte)) (t : State)
    (writes : List (Nat × Byte)) (cycles : Nat) : Bool :=
  match step (ready bytes s cells) with
  | .next u => decide ({ u with ccr := { u.ccr with v := t.ccr.v } } =
      poke writes { t with mem := (ready bytes s cells).mem, cycles := cycles, draws := 1 })
  | _ => false

/-- The step stops with IllegalOpcode at PC, the state unchanged but for the sample consumed. -/
def faultVector (bytes : List Byte) (s : State) : Bool :=
  match step (ready bytes s []) with
  | .fault f => decide (f = .illegalOpcode s.pc { ready bytes s [] with inputs := [] })
  | _ => false

/-- spec/95_test_vectors.md, V1 to V34. -/
theorem test_vectors_data_movement_1 : List.all (α := Bool) [
    vector [0xA6, 0x80] (st 0x0 0x0 0x0 0xff 0x1000 (fl 1 0 1 0 0 0)) [] (st 0x80 0x0 0x0 0xff 0x1002 (fl 0 0 1 1 0 0)) [] 2, -- V1
    vector [0xA6, 0x00] (st 0x55 0x0 0x0 0xff 0x1000 (fl 0 0 1 1 0 1)) [] (st 0x0 0x0 0x0 0xff 0x1002 (fl 0 0 1 0 1 1)) [] 2, -- V2
    vector [0xAE, 0x7F] (st 0x0 0x0 0x0 0xff 0x1000 (fl 1 0 1 1 0 0)) [] (st 0x0 0x7f 0x0 0xff 0x1002 (fl 0 0 1 0 0 0)) [] 2, -- V10
    vector [0xFE] (st 0x0 0x60 0x0 0xff 0x1000 (fl 0 0 1 0 0 0)) [(0x60, 0x80)] (st 0x0 0x80 0x0 0xff 0x1001 (fl 0 0 1 1 0 0)) [] 2, -- V11
    vector [0x45, 0x80, 0x00] (st 0x0 0x0 0x0 0xff 0x1000 (fl 1 0 1 0 0 0)) [] (st 0x0 0x0 0x80 0xff 0x1003 (fl 0 0 1 1 0 0)) [] 3, -- V12
    vector [0x45, 0x00, 0x00] (st 0x0 0x2 0x1 0xff 0x1000 (fl 0 0 1 0 0 0)) [] (st 0x0 0x0 0x0 0xff 0x1003 (fl 0 0 1 0 1 0)) [] 3, -- V13
    vector [0xB7, 0x50] (st 0x80 0x0 0x0 0xff 0x1000 (fl 1 0 1 0 0 1)) [] (st 0x80 0x0 0x0 0xff 0x1002 (fl 0 0 1 1 0 1)) [(0x50, 0x80)] 3, -- V16
    vector [0xF7] (st 0x0 0x10 0x2 0xff 0x1000 (fl 0 0 1 1 0 0)) [] (st 0x0 0x10 0x2 0xff 0x1001 (fl 0 0 1 0 1 0)) [(0x210, 0x0)] 2, -- V17
    vector [0xCF, 0x02, 0x00] (st 0x0 0x1 0x0 0xff 0x1000 (fl 1 0 1 0 1 0)) [] (st 0x0 0x1 0x0 0xff 0x1003 (fl 0 0 1 0 0 0)) [(0x200, 0x1)] 4, -- V18
    vector [0x35, 0x50] (st 0x0 0x1 0x80 0xff 0x1000 (fl 1 0 1 0 0 0)) [] (st 0x0 0x1 0x80 0xff 0x1002 (fl 0 0 1 1 0 0)) [(0x50, 0x80), (0x51, 0x1)] 4, -- V19
    vector [0x35, 0x50] (st 0x0 0x0 0x0 0xff 0x1000 (fl 0 0 1 1 0 0)) [(0x50, 0xaa), (0x51, 0xbb)] (st 0x0 0x0 0x0 0xff 0x1002 (fl 0 0 1 0 1 0)) [(0x50, 0x0), (0x51, 0x0)] 4, -- V20
    vector [0x87] (st 0xa5 0x0 0x0 0xff 0x1000 (fl 0 0 1 0 0 0)) [] (st 0xa5 0x0 0x0 0xfe 0x1001 (fl 0 0 1 0 0 0)) [(0xff, 0xa5)] 2, -- V21
    vector [0x87] (st 0x5a 0x0 0x0 0x0 0x1000 (fl 0 0 1 0 0 0)) [] (st 0x5a 0x0 0x0 0xffff 0x1001 (fl 0 0 1 0 0 0)) [(0x0, 0x5a)] 2, -- V22
    vector [0x8B] (st 0x0 0x0 0x12 0xff 0x1000 (fl 0 0 1 0 0 0)) [] (st 0x0 0x0 0x12 0xfe 0x1001 (fl 0 0 1 0 0 0)) [(0xff, 0x12)] 2, -- V23
    vector [0x89] (st 0x0 0x34 0x0 0xff 0x1000 (fl 0 0 1 0 0 0)) [] (st 0x0 0x34 0x0 0xfe 0x1001 (fl 0 0 1 0 0 0)) [(0xff, 0x34)] 2, -- V24
    vector [0x86] (st 0x0 0x0 0x0 0xfe 0x1000 (fl 0 0 1 0 1 0)) [(0xff, 0x0)] (st 0x0 0x0 0x0 0xff 0x1001 (fl 0 0 1 0 1 0)) [] 2, -- V25
    vector [0x86] (st 0x0 0x0 0x0 0xffff 0x1000 (fl 0 0 1 0 0 0)) [(0x0, 0x77)] (st 0x77 0x0 0x0 0x0 0x1001 (fl 0 0 1 0 0 0)) [] 2, -- V26
    vector [0x8A] (st 0x0 0x0 0x0 0xfd 0x1000 (fl 0 0 1 0 0 0)) [(0xfe, 0x12)] (st 0x0 0x0 0x12 0xfe 0x1001 (fl 0 0 1 0 0 0)) [] 2, -- V27
    vector [0x88] (st 0x0 0x0 0x0 0xfd 0x1000 (fl 0 0 1 0 0 0)) [(0xfe, 0x34)] (st 0x0 0x34 0x0 0xfe 0x1001 (fl 0 0 1 0 0 0)) [] 2, -- V28
    vector [0x84] (st 0xff 0x0 0x0 0xff 0x1000 (fl 0 0 0 0 0 0)) [] (st 0xff 0x0 0x0 0xff 0x1001 (fl 1 1 1 1 1 1)) [] 2, -- V29
    vector [0x84] (st 0x0 0x0 0x0 0xff 0x1000 (fl 1 1 1 1 1 1)) [] (st 0x0 0x0 0x0 0xff 0x1001 (fl 0 0 0 0 0 0)) [] 2, -- V30
    vector [0x85] (st 0x0 0x0 0x0 0xff 0x1000 (fl 1 0 1 0 1 1)) [] (st 0xeb 0x0 0x0 0xff 0x1001 (fl 1 0 1 0 1 1)) [] 1, -- V32
    vector [0x85] (st 0xff 0x0 0x0 0xff 0x1000 (fl 0 0 0 0 0 0)) [] (st 0x60 0x0 0x0 0xff 0x1001 (fl 0 0 0 0 0 0)) [] 1, -- V33
    vector [0x97] (st 0x80 0x0 0x0 0xff 0x1000 (fl 0 0 1 0 1 0)) [] (st 0x80 0x80 0x0 0xff 0x1001 (fl 0 0 1 0 1 0)) [] 1] id = true := by -- V34
  decide +kernel

/-- spec/95_test_vectors.md, V35 to V41. -/
theorem test_vectors_data_movement_2 : List.all (α := Bool) [
    vector [0x9F] (st 0x11 0x0 0x0 0xff 0x1000 (fl 0 0 1 1 0 0)) [] (st 0x0 0x0 0x0 0xff 0x1001 (fl 0 0 1 1 0 0)) [] 1, -- V35
    vector [0x94] (st 0x0 0x0 0x2 0xff 0x1000 (fl 0 0 1 0 0 0)) [] (st 0x0 0x0 0x2 0x1ff 0x1001 (fl 0 0 1 0 0 0)) [] 2, -- V36
    vector [0x94] (st 0x0 0x0 0x0 0xff 0x1000 (fl 0 0 1 0 0 0)) [] (st 0x0 0x0 0x0 0xffff 0x1001 (fl 0 0 1 0 0 0)) [] 2, -- V37
    vector [0x95] (st 0x0 0x0 0x0 0xff 0x1000 (fl 0 0 1 0 0 0)) [] (st 0x0 0x0 0x1 0xff 0x1001 (fl 0 0 1 0 0 0)) [] 2, -- V38
    vector [0x95] (st 0x0 0x55 0x55 0xffff 0x1000 (fl 0 0 1 0 0 0)) [] (st 0x0 0x0 0x0 0xffff 0x1001 (fl 0 0 1 0 0 0)) [] 2, -- V39
    vector [0x4E, 0x50, 0x60] (st 0x0 0x0 0x0 0xff 0x1000 (fl 1 0 1 0 0 0)) [(0x50, 0x80)] (st 0x0 0x0 0x0 0xff 0x1003 (fl 0 0 1 1 0 0)) [(0x60, 0x80)] 5, -- V40
    vector [0x5E, 0x50] (st 0x0 0xff 0x1 0xff 0x1000 (fl 0 0 1 0 0 0)) [(0x50, 0x0)] (st 0x0 0x0 0x2 0xff 0x1002 (fl 0 0 1 0 1 0)) [(0x1ff, 0x0)] 4] id = true := by -- V41
  decide +kernel

/-- spec/95_test_vectors.md, V45 to V83. -/
theorem test_vectors_arithmetic_1 : List.all (α := Bool) [
    vector [0xAB, 0x01] (st 0x7f 0x0 0x0 0xff 0x1000 (fl 0 0 1 0 0 0)) [] (st 0x80 0x0 0x0 0xff 0x1002 (fl 1 1 1 1 0 0)) [] 2, -- V45
    vector [0xAB, 0xFF] (st 0x1 0x0 0x0 0xff 0x1000 (fl 0 0 1 0 0 0)) [] (st 0x0 0x0 0x0 0xff 0x1002 (fl 0 1 1 0 1 1)) [] 2, -- V46
    vector [0xA9, 0x00] (st 0xff 0x0 0x0 0xff 0x1000 (fl 0 0 1 0 0 1)) [] (st 0x0 0x0 0x0 0xff 0x1002 (fl 0 1 1 0 1 1)) [] 2, -- V50
    vector [0xA9, 0x0F] (st 0x0 0x0 0x0 0xff 0x1000 (fl 0 0 1 0 0 1)) [] (st 0x10 0x0 0x0 0xff 0x1002 (fl 0 1 1 0 0 0)) [] 2, -- V51
    vector [0xA0, 0x01] (st 0x0 0x0 0x0 0xff 0x1000 (fl 0 1 1 0 0 0)) [] (st 0xff 0x0 0x0 0xff 0x1002 (fl 0 1 1 1 0 1)) [] 2, -- V54
    vector [0xA0, 0x01] (st 0x80 0x0 0x0 0xff 0x1000 (fl 0 0 1 0 0 0)) [] (st 0x7f 0x0 0x0 0xff 0x1002 (fl 1 0 1 0 0 0)) [] 2, -- V55
    vector [0xA2, 0xFF] (st 0x0 0x0 0x0 0xff 0x1000 (fl 0 0 1 0 0 1)) [] (st 0x0 0x0 0x0 0xff 0x1002 (fl 0 0 1 0 1 1)) [] 2, -- V58
    vector [0xA2, 0x00] (st 0x0 0x0 0x0 0xff 0x1000 (fl 0 0 1 0 0 1)) [] (st 0xff 0x0 0x0 0xff 0x1002 (fl 0 0 1 1 0 1)) [] 2, -- V59
    vector [0x42] (st 0xff 0xff 0x12 0xff 0x1000 (fl 1 1 1 1 1 1)) [] (st 0x1 0xfe 0x12 0xff 0x1001 (fl 1 0 1 1 1 0)) [] 5, -- V62
    vector [0x42] (st 0x0 0x37 0x0 0xff 0x1000 (fl 0 0 1 0 0 0)) [] (st 0x0 0x0 0x0 0xff 0x1001 (fl 0 0 1 0 0 0)) [] 5, -- V63
    vector [0x52] (st 0x0 0x10 0x1 0xff 0x1000 (fl 0 0 1 0 0 0)) [] (st 0x10 0x10 0x0 0xff 0x1001 (fl 0 0 1 0 0 0)) [] 7, -- V65
    vector [0x52] (st 0xff 0x2 0x0 0xff 0x1000 (fl 0 0 1 0 0 1)) [] (st 0x7f 0x2 0x1 0xff 0x1001 (fl 0 0 1 0 0 0)) [] 7, -- V66
    vector [0x4C] (st 0x7f 0x0 0x0 0xff 0x1000 (fl 0 0 1 0 0 0)) [] (st 0x80 0x0 0x0 0xff 0x1001 (fl 1 0 1 1 0 0)) [] 1, -- V71
    vector [0x4C] (st 0xff 0x0 0x0 0xff 0x1000 (fl 0 0 1 0 0 0)) [] (st 0x0 0x0 0x0 0xff 0x1001 (fl 0 0 1 0 1 0)) [] 1, -- V72
    vector [0x5C] (st 0x0 0xff 0x1 0xff 0x1000 (fl 0 0 1 0 0 0)) [] (st 0x0 0x0 0x1 0xff 0x1001 (fl 0 0 1 0 1 0)) [] 1, -- V74
    vector [0x3C, 0x50] (st 0x0 0x0 0x0 0xff 0x1000 (fl 0 0 1 0 0 0)) [(0x50, 0xf)] (st 0x0 0x0 0x0 0xff 0x1002 (fl 0 0 1 0 0 0)) [(0x50, 0x10)] 4, -- V75
    vector [0x9E, 0x6C, 0x01] (st 0x0 0x0 0x0 0xf0 0x1000 (fl 0 0 1 0 0 0)) [(0xf1, 0xfe)] (st 0x0 0x0 0x0 0xf0 0x1003 (fl 0 0 1 1 0 0)) [(0xf1, 0xff)] 5, -- V76
    vector [0x4A] (st 0x80 0x0 0x0 0xff 0x1000 (fl 0 0 1 0 0 0)) [] (st 0x7f 0x0 0x0 0xff 0x1001 (fl 1 0 1 0 0 0)) [] 1, -- V77
    vector [0x4A] (st 0x1 0x0 0x0 0xff 0x1000 (fl 0 0 1 0 0 1)) [] (st 0x0 0x0 0x0 0xff 0x1001 (fl 0 0 1 0 1 1)) [] 1, -- V78
    vector [0x5A] (st 0x0 0x0 0x1 0xff 0x1000 (fl 0 0 1 0 0 0)) [] (st 0x0 0xff 0x1 0xff 0x1001 (fl 0 0 1 1 0 0)) [] 1, -- V79
    vector [0x7A] (st 0x0 0x50 0x0 0xff 0x1000 (fl 0 0 1 0 0 0)) [(0x50, 0x0)] (st 0x0 0x50 0x0 0xff 0x1001 (fl 0 0 1 1 0 0)) [(0x50, 0xff)] 3, -- V80
    vector [0x43] (st 0x0 0x0 0x0 0xff 0x1000 (fl 1 0 1 0 0 0)) [] (st 0xff 0x0 0x0 0xff 0x1001 (fl 0 0 1 1 0 1)) [] 1, -- V81
    vector [0x43] (st 0xff 0x0 0x0 0xff 0x1000 (fl 0 0 1 0 0 0)) [] (st 0x0 0x0 0x0 0xff 0x1001 (fl 0 0 1 0 1 1)) [] 1, -- V82
    vector [0x33, 0x50] (st 0x0 0x0 0x0 0xff 0x1000 (fl 0 0 1 0 0 0)) [(0x50, 0x5a)] (st 0x0 0x0 0x0 0xff 0x1002 (fl 0 0 1 1 0 1)) [(0x50, 0xa5)] 4] id = true := by -- V83
  decide +kernel

/-- spec/95_test_vectors.md, V84 to V112. -/
theorem test_vectors_arithmetic_2 : List.all (α := Bool) [
    vector [0x40] (st 0x80 0x0 0x0 0xff 0x1000 (fl 0 0 1 0 0 0)) [] (st 0x80 0x0 0x0 0xff 0x1001 (fl 1 0 1 1 0 1)) [] 1, -- V84
    vector [0x40] (st 0x0 0x0 0x0 0xff 0x1000 (fl 0 0 1 0 0 1)) [] (st 0x0 0x0 0x0 0xff 0x1001 (fl 0 0 1 0 1 0)) [] 1, -- V85
    vector [0x50] (st 0x0 0xff 0x0 0xff 0x1000 (fl 0 0 1 0 0 0)) [] (st 0x0 0x1 0x0 0xff 0x1001 (fl 0 0 1 0 0 1)) [] 1, -- V87
    vector [0xA1, 0x05] (st 0x5 0x0 0x0 0xff 0x1000 (fl 0 0 1 0 0 1)) [] (st 0x5 0x0 0x0 0xff 0x1002 (fl 0 0 1 0 1 0)) [] 2, -- V88
    vector [0xA1, 0x06] (st 0x5 0x0 0x0 0xff 0x1000 (fl 0 0 1 0 0 0)) [] (st 0x5 0x0 0x0 0xff 0x1002 (fl 0 0 1 1 0 1)) [] 2, -- V89
    vector [0xA3, 0x10] (st 0x99 0x20 0x0 0xff 0x1000 (fl 0 0 1 0 0 0)) [] (st 0x99 0x20 0x0 0xff 0x1002 (fl 0 0 1 0 0 0)) [] 2, -- V92
    vector [0xB3, 0x50] (st 0x0 0x0 0x0 0xff 0x1000 (fl 0 0 1 0 0 0)) [(0x50, 0x1)] (st 0x0 0x0 0x0 0xff 0x1002 (fl 0 0 1 1 0 1)) [] 3, -- V93
    vector [0x65, 0x00, 0x01] (st 0x0 0x0 0x0 0xff 0x1000 (fl 0 0 1 0 0 0)) [] (st 0x0 0x0 0x0 0xff 0x1003 (fl 0 0 1 1 0 1)) [] 3, -- V94
    vector [0x65, 0x00, 0x00] (st 0x0 0x0 0x0 0xff 0x1000 (fl 0 0 1 0 0 0)) [] (st 0x0 0x0 0x0 0xff 0x1003 (fl 0 0 1 0 1 0)) [] 3, -- V95
    vector [0x4F] (st 0x99 0x0 0x0 0xff 0x1000 (fl 1 0 1 1 0 1)) [] (st 0x0 0x0 0x0 0xff 0x1001 (fl 0 0 1 0 1 1)) [] 1, -- V99
    vector [0x5F] (st 0x0 0x99 0x11 0xff 0x1000 (fl 0 0 1 0 0 0)) [] (st 0x0 0x0 0x11 0xff 0x1001 (fl 0 0 1 0 1 0)) [] 1, -- V100
    vector [0x8C] (st 0x0 0x99 0x11 0xff 0x1000 (fl 0 0 1 0 0 1)) [] (st 0x0 0x99 0x0 0xff 0x1001 (fl 0 0 1 0 1 1)) [] 1, -- V101
    vector [0x3F, 0x50] (st 0x0 0x0 0x0 0xff 0x1000 (fl 0 0 1 1 0 0)) [(0x50, 0xff)] (st 0x0 0x0 0x0 0xff 0x1002 (fl 0 0 1 0 1 0)) [(0x50, 0x0)] 3, -- V102
    vector [0x9E, 0x6F, 0x03] (st 0x0 0x0 0x0 0xe0 0x1000 (fl 0 0 1 0 0 0)) [(0xe3, 0xff)] (st 0x0 0x0 0x0 0xe0 0x1003 (fl 0 0 1 0 1 0)) [(0xe3, 0x0)] 4, -- V103
    vector [0x4D] (st 0x80 0x0 0x0 0xff 0x1000 (fl 1 0 1 0 0 1)) [] (st 0x80 0x0 0x0 0xff 0x1001 (fl 0 0 1 1 0 1)) [] 1, -- V104
    vector [0x5D] (st 0x0 0x0 0x0 0xff 0x1000 (fl 0 0 1 1 0 0)) [] (st 0x0 0x0 0x0 0xff 0x1001 (fl 0 0 1 0 1 0)) [] 1, -- V105
    vector [0x3D, 0x50] (st 0x0 0x0 0x0 0xff 0x1000 (fl 0 0 1 0 0 0)) [(0x50, 0x1)] (st 0x0 0x0 0x0 0xff 0x1002 (fl 0 0 1 0 0 0)) [] 3, -- V106
    vector [0xA7, 0xFA] (st 0x0 0x0 0x0 0xff 0x1000 (fl 0 0 1 0 1 1)) [] (st 0x0 0x0 0x0 0xf9 0x1002 (fl 0 0 1 0 1 1)) [] 2, -- V107
    vector [0xA7, 0x06] (st 0x0 0x0 0x0 0xf9 0x1000 (fl 0 0 1 0 0 0)) [] (st 0x0 0x0 0x0 0xff 0x1002 (fl 0 0 1 0 0 0)) [] 2, -- V108
    vector [0xAF, 0xFF] (st 0x0 0x0 0x1 0xff 0x1000 (fl 0 0 1 0 1 0)) [] (st 0x0 0xff 0x0 0xff 0x1002 (fl 0 0 1 0 1 0)) [] 2, -- V111
    vector [0xAF, 0xFF] (st 0x0 0x0 0x0 0xff 0x1000 (fl 0 0 1 0 0 0)) [] (st 0x0 0xff 0xff 0xff 0x1002 (fl 0 0 1 0 0 0)) [] 2] id = true := by -- V112
  decide +kernel

/-- spec/95_test_vectors.md, V115 to V132. -/
theorem test_vectors_logic_and_bits_1 : List.all (α := Bool) [
    vector [0xA4, 0x0F] (st 0xf0 0x0 0x0 0xff 0x1000 (fl 1 0 1 0 0 1)) [] (st 0x0 0x0 0x0 0xff 0x1002 (fl 0 0 1 0 1 1)) [] 2, -- V115
    vector [0xA4, 0x80] (st 0xff 0x0 0x0 0xff 0x1000 (fl 0 0 1 0 0 0)) [] (st 0x80 0x0 0x0 0xff 0x1002 (fl 0 0 1 1 0 0)) [] 2, -- V116
    vector [0xAA, 0x80] (st 0x1 0x0 0x0 0xff 0x1000 (fl 1 0 1 0 0 0)) [] (st 0x81 0x0 0x0 0xff 0x1002 (fl 0 0 1 1 0 0)) [] 2, -- V117
    vector [0xAA, 0x00] (st 0x0 0x0 0x0 0xff 0x1000 (fl 0 0 1 0 0 0)) [] (st 0x0 0x0 0x0 0xff 0x1002 (fl 0 0 1 0 1 0)) [] 2, -- V118
    vector [0xA8, 0xFF] (st 0xff 0x0 0x0 0xff 0x1000 (fl 1 0 1 0 0 0)) [] (st 0x0 0x0 0x0 0xff 0x1002 (fl 0 0 1 0 1 0)) [] 2, -- V119
    vector [0xA8, 0xFF] (st 0xf 0x0 0x0 0xff 0x1000 (fl 0 0 1 0 0 0)) [] (st 0xf0 0x0 0x0 0xff 0x1002 (fl 0 0 1 1 0 0)) [] 2, -- V120
    vector [0xA5, 0x80] (st 0xc0 0x0 0x0 0xff 0x1000 (fl 1 0 1 0 0 0)) [] (st 0xc0 0x0 0x0 0xff 0x1002 (fl 0 0 1 1 0 0)) [] 2, -- V121
    vector [0xB5, 0x50] (st 0xf 0x0 0x0 0xff 0x1000 (fl 0 0 1 0 0 0)) [(0x50, 0xf0)] (st 0xf 0x0 0x0 0xff 0x1002 (fl 0 0 1 0 1 0)) [] 3, -- V122
    vector [0x11, 0x50] (st 0x0 0x0 0x0 0xff 0x1000 (fl 0 0 1 1 1 1)) [(0x50, 0xff)] (st 0x0 0x0 0x0 0xff 0x1002 (fl 0 0 1 1 1 1)) [(0x50, 0xfe)] 4, -- V123
    vector [0x1F, 0x50] (st 0x0 0x0 0x0 0xff 0x1000 (fl 0 0 1 0 0 0)) [(0x50, 0xff)] (st 0x0 0x0 0x0 0xff 0x1002 (fl 0 0 1 0 0 0)) [(0x50, 0x7f)] 4, -- V124
    vector [0x10, 0x50] (st 0x0 0x0 0x0 0xff 0x1000 (fl 0 0 1 0 0 0)) [(0x50, 0x0)] (st 0x0 0x0 0x0 0xff 0x1002 (fl 0 0 1 0 0 0)) [(0x50, 0x1)] 4, -- V126
    vector [0x1E, 0x50] (st 0x0 0x0 0x0 0xff 0x1000 (fl 0 0 1 0 0 0)) [(0x50, 0x1)] (st 0x0 0x0 0x0 0xff 0x1002 (fl 0 0 1 0 0 0)) [(0x50, 0x81)] 4, -- V127
    vector [0x98] (st 0x0 0x0 0x0 0xff 0x1000 (fl 0 0 1 0 0 1)) [] (st 0x0 0x0 0x0 0xff 0x1001 (fl 0 0 1 0 0 0)) [] 1, -- V129
    vector [0x99] (st 0x0 0x0 0x0 0xff 0x1000 (fl 0 0 1 0 0 0)) [] (st 0x0 0x0 0x0 0xff 0x1001 (fl 0 0 1 0 0 1)) [] 1, -- V130
    vector [0x9A] (st 0x0 0x0 0x0 0xff 0x1000 (fl 0 0 1 0 0 0)) [] ({ st 0x0 0x0 0x0 0xff 0x1001 (fl 0 0 0 0 0 0) with inhibitNext := true }) [] 2, -- V131
    vector [0x9B] (st 0x0 0x0 0x0 0xff 0x1000 (fl 0 0 0 0 0 0)) [] (st 0x0 0x0 0x0 0xff 0x1001 (fl 0 0 1 0 0 0)) [] 2] id = true := by -- V132
  decide +kernel

/-- spec/95_test_vectors.md, V133 to V154. -/
theorem test_vectors_shifts_and_rotates_1 : List.all (α := Bool) [
    vector [0x48] (st 0x80 0x0 0x0 0xff 0x1000 (fl 0 0 1 0 0 0)) [] (st 0x0 0x0 0x0 0xff 0x1001 (fl 1 0 1 0 1 1)) [] 1, -- V133
    vector [0x48] (st 0x40 0x0 0x0 0xff 0x1000 (fl 0 0 1 0 0 0)) [] (st 0x80 0x0 0x0 0xff 0x1001 (fl 1 0 1 1 0 0)) [] 1, -- V134
    vector [0x38, 0x50] (st 0x0 0x0 0x0 0xff 0x1000 (fl 0 0 1 0 0 0)) [(0x50, 0x55)] (st 0x0 0x0 0x0 0xff 0x1002 (fl 1 0 1 1 0 0)) [(0x50, 0xaa)] 4, -- V137
    vector [0x47] (st 0x81 0x0 0x0 0xff 0x1000 (fl 0 0 1 0 0 0)) [] (st 0xc0 0x0 0x0 0xff 0x1001 (fl 0 0 1 1 0 1)) [] 1, -- V138
    vector [0x47] (st 0x1 0x0 0x0 0xff 0x1000 (fl 0 0 1 0 0 0)) [] (st 0x0 0x0 0x0 0xff 0x1001 (fl 1 0 1 0 1 1)) [] 1, -- V139
    vector [0x57] (st 0x0 0x7e 0x0 0xff 0x1000 (fl 0 0 1 0 0 1)) [] (st 0x0 0x3f 0x0 0xff 0x1001 (fl 0 0 1 0 0 0)) [] 1, -- V141
    vector [0x44] (st 0x1 0x0 0x0 0xff 0x1000 (fl 0 0 1 0 0 0)) [] (st 0x0 0x0 0x0 0xff 0x1001 (fl 1 0 1 0 1 1)) [] 1, -- V142
    vector [0x44] (st 0x80 0x0 0x0 0xff 0x1000 (fl 0 0 1 1 0 0)) [] (st 0x40 0x0 0x0 0xff 0x1001 (fl 0 0 1 0 0 0)) [] 1, -- V143
    vector [0x74] (st 0x0 0x50 0x0 0xff 0x1000 (fl 0 0 1 0 0 0)) [(0x50, 0x2)] (st 0x0 0x50 0x0 0xff 0x1001 (fl 0 0 1 0 0 0)) [(0x50, 0x1)] 3, -- V145
    vector [0x49] (st 0x80 0x0 0x0 0xff 0x1000 (fl 0 0 1 0 0 1)) [] (st 0x1 0x0 0x0 0xff 0x1001 (fl 1 0 1 0 0 1)) [] 1, -- V146
    vector [0x49] (st 0x40 0x0 0x0 0xff 0x1000 (fl 0 0 1 0 0 0)) [] (st 0x80 0x0 0x0 0xff 0x1001 (fl 1 0 1 1 0 0)) [] 1, -- V147
    vector [0x46] (st 0x1 0x0 0x0 0xff 0x1000 (fl 0 0 1 0 0 1)) [] (st 0x80 0x0 0x0 0xff 0x1001 (fl 0 0 1 1 0 1)) [] 1, -- V150
    vector [0x46] (st 0x1 0x0 0x0 0xff 0x1000 (fl 0 0 1 0 0 0)) [] (st 0x0 0x0 0x0 0xff 0x1001 (fl 1 0 1 0 1 1)) [] 1, -- V151
    vector [0x9E, 0x66, 0x01] (st 0x0 0x0 0x0 0xf0 0x1000 (fl 0 0 1 0 0 1)) [(0xf1, 0xfe)] (st 0x0 0x0 0x0 0xf0 0x1003 (fl 1 0 1 1 0 0)) [(0xf1, 0xff)] 5] id = true := by -- V154
  decide +kernel

/-- spec/95_test_vectors.md, V155 to V181. -/
theorem test_vectors_program_control_1 : List.all (α := Bool) [
    vector [0x20, 0x10] (st 0x0 0x0 0x0 0xff 0x1000 (fl 0 0 1 0 0 0)) [] (st 0x0 0x0 0x0 0xff 0x1012 (fl 0 0 1 0 0 0)) [] 3, -- V155
    vector [0x20, 0xFE] (st 0x0 0x0 0x0 0xff 0x1000 (fl 0 0 1 0 0 0)) [] (st 0x0 0x0 0x0 0xff 0x1000 (fl 0 0 1 0 0 0)) [] 3, -- V156
    vector [0x21, 0x10] (st 0x0 0x0 0x0 0xff 0x1000 (fl 0 0 1 0 0 0)) [] (st 0x0 0x0 0x0 0xff 0x1002 (fl 0 0 1 0 0 0)) [] 3, -- V160
    vector [0x27, 0x10] (st 0x0 0x0 0x0 0xff 0x1000 (fl 0 0 1 0 1 0)) [] (st 0x0 0x0 0x0 0xff 0x1012 (fl 0 0 1 0 1 0)) [] 3, -- V161
    vector [0x27, 0x10] (st 0x0 0x0 0x0 0xff 0x1000 (fl 0 0 1 0 0 0)) [] (st 0x0 0x0 0x0 0xff 0x1002 (fl 0 0 1 0 0 0)) [] 3, -- V162
    vector [0x26, 0xF0] (st 0x0 0x0 0x0 0xff 0x1000 (fl 0 0 1 0 0 0)) [] (st 0x0 0x0 0x0 0xff 0xff2 (fl 0 0 1 0 0 0)) [] 3, -- V163
    vector [0x24, 0x04] (st 0x0 0x0 0x0 0xff 0x1000 (fl 0 0 1 0 0 0)) [] (st 0x0 0x0 0x0 0xff 0x1006 (fl 0 0 1 0 0 0)) [] 3, -- V164
    vector [0x25, 0x04] (st 0x0 0x0 0x0 0xff 0x1000 (fl 0 0 1 0 0 0)) [] (st 0x0 0x0 0x0 0xff 0x1002 (fl 0 0 1 0 0 0)) [] 3, -- V165
    vector [0x22, 0x04] (st 0x0 0x0 0x0 0xff 0x1000 (fl 0 0 1 0 0 0)) [] (st 0x0 0x0 0x0 0xff 0x1006 (fl 0 0 1 0 0 0)) [] 3, -- V166
    vector [0x22, 0x04] (st 0x0 0x0 0x0 0xff 0x1000 (fl 0 0 1 0 1 0)) [] (st 0x0 0x0 0x0 0xff 0x1002 (fl 0 0 1 0 1 0)) [] 3, -- V167
    vector [0x23, 0x04] (st 0x0 0x0 0x0 0xff 0x1000 (fl 0 0 1 0 0 1)) [] (st 0x0 0x0 0x0 0xff 0x1006 (fl 0 0 1 0 0 1)) [] 3, -- V168
    vector [0x23, 0x04] (st 0x0 0x0 0x0 0xff 0x1000 (fl 0 0 1 0 0 0)) [] (st 0x0 0x0 0x0 0xff 0x1002 (fl 0 0 1 0 0 0)) [] 3, -- V169
    vector [0x2A, 0x04] (st 0x0 0x0 0x0 0xff 0x1000 (fl 0 0 1 1 0 0)) [] (st 0x0 0x0 0x0 0xff 0x1002 (fl 0 0 1 1 0 0)) [] 3, -- V170
    vector [0x2B, 0x04] (st 0x0 0x0 0x0 0xff 0x1000 (fl 0 0 1 1 0 0)) [] (st 0x0 0x0 0x0 0xff 0x1006 (fl 0 0 1 1 0 0)) [] 3, -- V171
    vector [0x28, 0x04] (st 0x0 0x0 0x0 0xff 0x1000 (fl 0 1 1 0 0 0)) [] (st 0x0 0x0 0x0 0xff 0x1002 (fl 0 1 1 0 0 0)) [] 3, -- V172
    vector [0x29, 0x04] (st 0x0 0x0 0x0 0xff 0x1000 (fl 0 1 1 0 0 0)) [] (st 0x0 0x0 0x0 0xff 0x1006 (fl 0 1 1 0 0 0)) [] 3, -- V173
    vector [0x2C, 0x04] (st 0x0 0x0 0x0 0xff 0x1000 (fl 0 0 1 0 0 0)) [] (st 0x0 0x0 0x0 0xff 0x1002 (fl 0 0 1 0 0 0)) [] 3, -- V174
    vector [0x2D, 0x04] (st 0x0 0x0 0x0 0xff 0x1000 (fl 0 0 1 0 0 0)) [] (st 0x0 0x0 0x0 0xff 0x1006 (fl 0 0 1 0 0 0)) [] 3, -- V175
    vector [0x2E, 0x04] (st 0x0 0x0 0x0 0xff 0x1000 (fl 0 0 1 0 0 0)) [] (st 0x0 0x0 0x0 0xff 0x1002 (fl 0 0 1 0 0 0)) [] 3, -- V176
    vector [0x2F, 0x04] (st 0x0 0x0 0x0 0xff 0x1000 (fl 0 0 1 0 0 0)) [] (st 0x0 0x0 0x0 0xff 0x1006 (fl 0 0 1 0 0 0)) [] 3, -- V177
    vector [0x2E, 0x04] ({ st 0x0 0x0 0x0 0xff 0x1000 (fl 0 0 1 0 0 0) with irqPin := false }) [] ({ st 0x0 0x0 0x0 0xff 0x1006 (fl 0 0 1 0 0 0) with irqPin := false }) [] 3, -- V178
    vector [0x90, 0x04] (st 0x0 0x0 0x0 0xff 0x1000 (fl 1 0 1 1 0 0)) [] (st 0x0 0x0 0x0 0xff 0x1006 (fl 1 0 1 1 0 0)) [] 3, -- V179
    vector [0x90, 0x04] (st 0x0 0x0 0x0 0xff 0x1000 (fl 0 0 1 1 0 0)) [] (st 0x0 0x0 0x0 0xff 0x1002 (fl 0 0 1 1 0 0)) [] 3, -- V180
    vector [0x91, 0x04] (st 0x0 0x0 0x0 0xff 0x1000 (fl 1 0 1 0 0 0)) [] (st 0x0 0x0 0x0 0xff 0x1006 (fl 1 0 1 0 0 0)) [] 3] id = true := by -- V181
  decide +kernel

/-- spec/95_test_vectors.md, V182 to V221. -/
theorem test_vectors_program_control_2 : List.all (α := Bool) [
    vector [0x92, 0x04] (st 0x0 0x0 0x0 0xff 0x1000 (fl 0 0 1 0 1 0)) [] (st 0x0 0x0 0x0 0xff 0x1002 (fl 0 0 1 0 1 0)) [] 3, -- V182
    vector [0x92, 0x04] (st 0x0 0x0 0x0 0xff 0x1000 (fl 1 0 1 1 0 0)) [] (st 0x0 0x0 0x0 0xff 0x1006 (fl 1 0 1 1 0 0)) [] 3, -- V183
    vector [0x93, 0x04] (st 0x0 0x0 0x0 0xff 0x1000 (fl 0 0 1 0 1 0)) [] (st 0x0 0x0 0x0 0xff 0x1006 (fl 0 0 1 0 1 0)) [] 3, -- V184
    vector [0x93, 0x04] (st 0x0 0x0 0x0 0xff 0x1000 (fl 0 0 1 0 0 0)) [] (st 0x0 0x0 0x0 0xff 0x1002 (fl 0 0 1 0 0 0)) [] 3, -- V185
    vector [0x0E, 0x50, 0x10] (st 0x0 0x0 0x0 0xff 0x1000 (fl 0 0 1 0 0 0)) [(0x50, 0x80)] (st 0x0 0x0 0x0 0xff 0x1013 (fl 0 0 1 0 0 1)) [] 5, -- V186
    vector [0x0E, 0x50, 0x10] (st 0x0 0x0 0x0 0xff 0x1000 (fl 0 0 1 0 0 1)) [(0x50, 0x7f)] (st 0x0 0x0 0x0 0xff 0x1003 (fl 0 0 1 0 0 0)) [] 5, -- V187
    vector [0x01, 0x50, 0x10] (st 0x0 0x0 0x0 0xff 0x1000 (fl 0 0 1 0 0 1)) [(0x50, 0xfe)] (st 0x0 0x0 0x0 0xff 0x1013 (fl 0 0 1 0 0 0)) [] 5, -- V189
    vector [0x07, 0x50, 0x10] (st 0x0 0x0 0x0 0xff 0x1000 (fl 0 0 1 0 0 0)) [(0x50, 0x8)] (st 0x0 0x0 0x0 0xff 0x1003 (fl 0 0 1 0 0 1)) [] 5, -- V190
    vector [0x31, 0x50, 0x10] (st 0x42 0x0 0x0 0xff 0x1000 (fl 0 0 1 0 0 0)) [(0x50, 0x42)] (st 0x42 0x0 0x0 0xff 0x1013 (fl 0 0 1 0 0 0)) [] 5, -- V191
    vector [0x31, 0x50, 0x10] (st 0x42 0x0 0x0 0xff 0x1000 (fl 0 0 1 0 1 1)) [(0x50, 0x43)] (st 0x42 0x0 0x0 0xff 0x1003 (fl 0 0 1 0 1 1)) [] 5, -- V192
    vector [0x41, 0x42, 0x10] (st 0x42 0x0 0x0 0xff 0x1000 (fl 0 0 1 0 0 0)) [] (st 0x42 0x0 0x0 0xff 0x1013 (fl 0 0 1 0 0 0)) [] 4, -- V193
    vector [0x51, 0x42, 0x10] (st 0x0 0x42 0x0 0xff 0x1000 (fl 0 0 1 0 0 0)) [] (st 0x0 0x42 0x0 0xff 0x1013 (fl 0 0 1 0 0 0)) [] 4, -- V194
    vector [0x3B, 0x50, 0xFD] (st 0x0 0x0 0x0 0xff 0x1000 (fl 0 0 1 1 1 0)) [(0x50, 0x2)] (st 0x0 0x0 0x0 0xff 0x1000 (fl 0 0 1 1 1 0)) [(0x50, 0x1)] 5, -- V199
    vector [0x3B, 0x50, 0xFD] (st 0x0 0x0 0x0 0xff 0x1000 (fl 0 0 1 0 0 0)) [(0x50, 0x1)] (st 0x0 0x0 0x0 0xff 0x1003 (fl 0 0 1 0 0 0)) [(0x50, 0x0)] 5, -- V200
    vector [0x4B, 0xFE] (st 0x1 0x0 0x0 0xff 0x1000 (fl 0 0 1 0 0 0)) [] (st 0x0 0x0 0x0 0xff 0x1002 (fl 0 0 1 0 0 0)) [] 3, -- V202
    vector [0x4B, 0xFE] (st 0x0 0x0 0x0 0xff 0x1000 (fl 0 0 1 0 0 1)) [] (st 0xff 0x0 0x0 0xff 0x1000 (fl 0 0 1 0 0 1)) [] 3, -- V203
    vector [0x5B, 0x10] (st 0x0 0x0 0x1 0xff 0x1000 (fl 0 0 1 0 0 0)) [] (st 0x0 0xff 0x1 0xff 0x1012 (fl 0 0 1 0 0 0)) [] 3, -- V204
    vector [0xBC, 0x50] (st 0x0 0x0 0x0 0xff 0x1000 (fl 0 0 1 0 0 0)) [] (st 0x0 0x0 0x0 0xff 0x50 (fl 0 0 1 0 0 0)) [] 2, -- V208
    vector [0xCC, 0x80, 0x00] (st 0x0 0x0 0x0 0xff 0x1000 (fl 0 0 1 0 0 0)) [] (st 0x0 0x0 0x0 0xff 0x8000 (fl 0 0 1 0 0 0)) [] 3, -- V209
    vector [0xBD, 0x50] (st 0x0 0x0 0x0 0xff 0x1000 (fl 0 0 1 0 0 0)) [] (st 0x0 0x0 0x0 0xfd 0x50 (fl 0 0 1 0 0 0)) [(0xff, 0x2), (0xfe, 0x10)] 4, -- V213
    vector [0xCD, 0x80, 0x00] (st 0x0 0x0 0x0 0xff 0x1000 (fl 0 0 1 0 0 0)) [] (st 0x0 0x0 0x0 0xfd 0x8000 (fl 0 0 1 0 0 0)) [(0xff, 0x3), (0xfe, 0x10)] 5, -- V214
    vector [0xAD, 0x10] (st 0x0 0x0 0x0 0xff 0x1000 (fl 0 0 1 0 0 0)) [] (st 0x0 0x0 0x0 0xfd 0x1012 (fl 0 0 1 0 0 0)) [(0xff, 0x2), (0xfe, 0x10)] 4, -- V219
    vector [0xAD, 0xFE] (st 0x0 0x0 0x0 0xff 0x1000 (fl 0 0 1 0 0 0)) [] (st 0x0 0x0 0x0 0xfd 0x1000 (fl 0 0 1 0 0 0)) [(0xff, 0x2), (0xfe, 0x10)] 4, -- V220
    vector [0x81] (st 0x0 0x0 0x0 0xfd 0x1000 (fl 0 0 1 0 0 0)) [(0xfe, 0x80), (0xff, 0x3)] (st 0x0 0x0 0x0 0xff 0x8003 (fl 0 0 1 0 0 0)) [] 4] id = true := by -- V221
  decide +kernel

/-- spec/95_test_vectors.md, V222 to V225. -/
theorem test_vectors_program_control_3 : List.all (α := Bool) [
    vector [0x81] (st 0x0 0x0 0x0 0xfffe 0x1000 (fl 0 0 1 0 0 0)) [(0x0, 0x34), (0xffff, 0x12)] (st 0x0 0x0 0x0 0x0 0x1234 (fl 0 0 1 0 0 0)) [] 4, -- V222
    vector [0x83] (st 0x11 0x22 0x33 0xff 0x1000 (fl 1 0 0 1 0 1)) [(0xfffc, 0x90), (0xfffd, 0x0)] (st 0x11 0x22 0x33 0xfa 0x9000 (fl 1 0 1 1 0 1)) [(0xff, 0x1), (0xfe, 0x10), (0xfd, 0x22), (0xfc, 0x11), (0xfb, 0xe5)] 9, -- V223
    vector [0x80] (st 0x0 0x0 0x33 0xfa 0x1000 (fl 0 0 1 0 0 0)) [(0xfb, 0xe5), (0xfc, 0x11), (0xfd, 0x22), (0xfe, 0x10), (0xff, 0x1)] (st 0x11 0x22 0x33 0xff 0x1001 (fl 1 0 0 1 0 1)) [] 7, -- V224
    vector [0x80] (st 0x0 0x0 0x0 0xfa 0x1000 (fl 1 1 1 1 1 1)) [(0xfb, 0x0), (0xfc, 0xaa), (0xfd, 0xbb), (0xfe, 0x20), (0xff, 0x0)] (st 0xaa 0xbb 0x0 0xff 0x2000 (fl 0 0 0 0 0 0)) [] 7] id = true := by -- V225
  decide +kernel

/-- spec/95_test_vectors.md, V226 to V240. -/
theorem test_vectors_bcd_and_special_1 : List.all (α := Bool) [
    daaVector [0x72] (st 0x41 0x0 0x0 0xff 0x1000 (fl 0 1 1 0 0 0)) [] (st 0x47 0x0 0x0 0xff 0x1001 (fl 0 1 1 0 0 0)) [] 2, -- V226
    daaVector [0x72] (st 0x9a 0x0 0x0 0xff 0x1000 (fl 0 0 1 0 0 0)) [] (st 0x0 0x0 0x0 0xff 0x1001 (fl 0 0 1 0 1 1)) [] 2, -- V227
    vector [0x62] (st 0xa5 0x0 0x0 0xff 0x1000 (fl 0 0 1 0 1 0)) [] (st 0x5a 0x0 0x0 0xff 0x1001 (fl 0 0 1 0 1 0)) [] 3, -- V234
    vector [0x62] (st 0xf 0x0 0x0 0xff 0x1000 (fl 0 0 1 0 0 0)) [] (st 0xf0 0x0 0x0 0xff 0x1001 (fl 0 0 1 0 0 0)) [] 3, -- V235
    vector [0x9C] (st 0x0 0x0 0x0 0x123 0x1000 (fl 0 0 1 0 0 0)) [] (st 0x0 0x0 0x0 0x1ff 0x1001 (fl 0 0 1 0 0 0)) [] 1, -- V236
    vector [0x9C] (st 0x0 0x0 0x0 0xfe00 0x1000 (fl 0 0 1 0 0 0)) [] (st 0x0 0x0 0x0 0xfeff 0x1001 (fl 0 0 1 0 0 0)) [] 1, -- V237
    vector [0x9D] (st 0x12 0x0 0x0 0xff 0x1000 (fl 0 0 1 0 0 1)) [] (st 0x12 0x0 0x0 0xff 0x1001 (fl 0 0 1 0 0 1)) [] 1, -- V238
    vector [0x8F] (st 0x0 0x0 0x0 0xff 0x1000 (fl 0 0 1 0 0 0)) [] ({ st 0x0 0x0 0x0 0xff 0x1001 (fl 0 0 0 0 0 0) with mode := .waiting }) [] 1, -- V239
    vector [0x8E] (st 0x0 0x0 0x0 0xff 0x1000 (fl 0 0 1 0 0 0)) [] ({ st 0x0 0x0 0x0 0xff 0x1001 (fl 0 0 0 0 0 0) with mode := .stopped }) [] 1] id = true := by -- V240
  decide +kernel

/-- spec/95_test_vectors.md, V241 to V249. -/
theorem test_vectors_encoding_1 : List.all (α := Bool) [
    faultVector [0x32] (st 0x0 0x0 0x0 0xff 0x1000 (fl 0 0 1 0 0 0)), -- V241
    faultVector [0x3E] (st 0x0 0x0 0x0 0xff 0x1000 (fl 0 0 1 0 0 0)), -- V242
    faultVector [0x82] (st 0x0 0x0 0x0 0xff 0x1000 (fl 0 0 1 0 0 0)), -- V243
    faultVector [0x8D] (st 0x0 0x0 0x0 0xff 0x1000 (fl 0 0 1 0 0 0)), -- V244
    faultVector [0x96] (st 0x0 0x0 0x0 0xff 0x1000 (fl 0 0 1 0 0 0)), -- V245
    faultVector [0xAC] (st 0x0 0x0 0x0 0xff 0x1000 (fl 0 0 1 0 0 0)), -- V246
    faultVector [0x9E, 0x00] (st 0x0 0x0 0x0 0xff 0x1000 (fl 0 0 1 0 0 0)), -- V247
    faultVector [0x9E, 0xA6, 0x00] (st 0x0 0x0 0x0 0xff 0x1000 (fl 0 0 1 0 0 0)), -- V248
    faultVector [0x9E, 0x9E] (st 0x0 0x0 0x0 0xff 0x1000 (fl 0 0 1 0 0 0))] id = true := by -- V249
  decide +kernel

/-- R165, R290 where the values are free: C after DIV, and H and I after DAA, are as the rules say. -/
theorem test_free_values_leave_the_rest :
    (match exec .div (st 0x00 0x10 0x10 0xFF 0x1001 (fl 1 1 1 1 0 0)) with
      | .next t => t.x == 0x10 && t.ccr.c && t.ccr.v && t.ccr.n
      | _ => false) = true ∧
    (match exec .daa (st 0x07 0 0 0xFF 0x1001 (fl 0 1 1 0 0 0)) with
      | .next t => t.x == 0x00 && t.ccr.hc && t.ccr.i
      | _ => false) = true := by decide +kernel

/-! ## Loading, reset and interrupts -/

/-- A table word placed by `withFetchWord` is what the next step runs (R317). -/
theorem test_withFetchWord_runs_the_word :
    (match step (State.reset.withFetchWord 16 0x9EEB) with
      | .next t => t.pc == 3 && t.ccr.hc == false && t.cycles == 4
      | _ => false) = true := by decide +kernel

/-- R38, R340: what the spec states of the state after reset, and the vector read from loaded memory. -/
theorem test_reset_registers :
    State.reset.h = 0x00 ∧ State.reset.sp = 0x00FF ∧ State.reset.ccr.i = true ∧
    State.reset.mode = .running ∧ State.reset.inhibitNext = false := by decide

theorem test_reset_step_loads_the_vector :
    (match step { poke [(0xFFFE, 0x80), (0xFFFF, 0x10)] (st 0x11 0x22 0x33 0x0123 0x1000 (fl 1 0 0 1 0 1)) with
        mode := .stopped, inputs := [{ resetRequested := true, irqPin := true, raised := [], withdrawn := [] }] } with
      | .next t => t.pc == 0x8010 && t.sp == 0x00FF && t.h == 0x00 && t.a == 0x11 && t.x == 0x22 &&
          t.ccr == fl 1 0 1 1 0 1 && t.mode == .running
      | _ => false) = true := by decide +kernel

/-- A state about to run, with the IRQ source raised by the sample of this step. -/
def interrupted (s : State) : State :=
  { s with inputs := [{ resetRequested := false, irqPin := true, raised := [Config.irqSource], withdrawn := [] }] }

/-- The state of program P7 of spec/95_test_vectors.md at its step 3. -/
def waitingP7 : State :=
  { poke [(0x8000, 0x9A), (0x8001, 0x8F), (0x8002, 0x20), (0x8003, 0xFE), (0x9100, 0x80), (0xFFFA, 0x91)]
      (st 0xAA 0xBB 0xCC 0xFF 0x8002 (fl 0 0 0 0 0 0)) with mode := .waiting }

/-- P7, step 3: the frame, the mask, the vector; H is not stacked (R302, R303). -/
theorem test_interrupt_wakes_wait :
    (match step (interrupted waitingP7) with
      | .next t => t.pc == 0x9100 && t.sp == 0x00FA && t.ccr == fl 0 0 1 0 0 0 && t.mode == .running && t.pending == [] &&
          t.h == 0xCC && bytesAt t.mem 0x00FB 5 == [0x60, 0xAA, 0xBB, 0x80, 0x02]
      | _ => false) = true := by decide +kernel

/-- P7, step 2: the CLI delay holds the request for one instruction (R208, R344). -/
theorem test_cli_delay_runs_one_instruction :
    (match step (interrupted { waitingP7 with pc := 0x8001, mode := .running, inhibitNext := true }) with
      | .next t => t.pc == 0x8002 && t.mode == .waiting && t.pending == [Config.irqSource] && t.inhibitNext == false
      | _ => false) = true := by decide +kernel

/-- R303: with I set the instruction runs and the request stays pending. -/
theorem test_mask_holds_the_interrupt :
    (match step (interrupted { waitingP7 with mode := .running, ccr := fl 0 0 1 0 0 0 }) with
      | .next t => t.pc == 0x8002 && t.pending == [Config.irqSource]
      | _ => false) = true := by decide +kernel

/-- R316: WAIT without a request holds. -/
theorem test_wait_holds :
    (match step { waitingP7 with
        inputs := [{ resetRequested := false, irqPin := true, raised := [], withdrawn := [] }] } with
      | .next t => decide (t = waitingP7)
      | _ => false) = true := by decide +kernel

/-- U8: STA into the next opcode is recorded as stale; the model's choice (log 14). -/
theorem test_overwritten_next_opcode_is_recorded :
    (match step (ready [0xC7, 0x10, 0x03, 0x9D] (st 0x4C 0 0 0xFF 0x1000 (fl 0 0 1 0 0 0)) []) with
      | .next t => t.stale == [⟨0x1003, 0x1003, 0x9D⟩] && t.mem.read 0x1003 == 0x4C
      | _ => false) = true := by decide +kernel

/-- U8: JSR stacks over the opcode at its own PCnext and jumps away; the byte stays open. -/
theorem test_call_over_its_own_return_address :
    (match step (ready [0xCD, 0x20, 0x00, 0x9D] (st 0 0 0 0x1003 0x1000 (fl 0 0 1 0 0 0)) []) with
      | .next t => t.pc == 0x2000 && t.stale == [⟨0x1003, 0x1003, 0x9D⟩] && t.mem.read 0x1003 == 0x03
      | _ => false) = true := by decide +kernel

/-- U8: a store to the instruction after the one at PCnext (here NOP) is well defined. -/
theorem test_store_further_ahead_is_well_defined :
    (match step (ready [0xC7, 0x10, 0x04, 0x9D, 0x9D] (st 0x4C 0 0 0xFF 0x1000 (fl 0 0 1 0 0 0)) []) with
      | .next t => t.stale == [] && t.mem.read 0x1004 == 0x4C
      | _ => false) = true := by decide +kernel

/-- U8: an interrupt before the overwritten byte is executed does not settle it. -/
theorem test_interrupt_leaves_the_byte_open :
    (match step (interrupted { waitingP7 with stale := [⟨0x8002, 0x8002, 0x9D⟩] }) with
      | .next t => t.pc == 0x9100 && t.stale == [⟨0x8002, 0x8002, 0x9D⟩]
      | _ => false) = true := by decide +kernel

/-- R66, R348: a later store of the value memory holds already is seen by every later fetch. -/
theorem test_store_of_the_same_value_settles :
    (match step (ready [0xB7, 0x50] { st 0x03 0 0 0xFF 0x1000 (fl 0 0 1 0 0 0) with
        stale := [⟨0x0050, 0x0050, 0x9D⟩, ⟨0x0050, 0x0051, 0x9D⟩] } [(0x50, 0x03)]) with
      | .next t => t.stale == [⟨0x0050, 0x0051, 0x9D⟩] && t.mem.read 0x50 == 0x03
      | _ => false) = true := by decide +kernel

/-! ## Witnesses of the obligations' hypotheses -/

/-- The outcome is a next state. -/
def isNext (r : Result) : Bool :=
  match r with
  | .next _ => true
  | _ => false

/-- The outcome is a fault. -/
def isFault (r : Result) : Bool :=
  match r with
  | .fault _ => true
  | _ => false

theorem all_of {l : List Addr} {p : Addr → Prop} [DecidablePred p] (h : l.all (fun a => decide (p a)) = true) :
    ∀ a ∈ l, p a := by simpa using h

theorem next_of (r : Result) (h : isNext r = true) : ∃ t, r = .next t := by
  cases r <;> simp_all [isNext]

theorem fault_of (r : Result) (h : isFault r = true) : ∃ f, r = .fault f := by
  cases r <;> simp_all [isFault]

/-- A platform with RAM, a ROM page at $8000, a device page at $9000 and a hole from $A000 to $AFFF. -/
def mixed (behaviour : Config.IllegalAddress) : Config.Platform :=
  { Config.defaultPlatform with
    memMap := { regions := [⟨0x8000, 0x1000, .rom⟩, ⟨0x9000, 0x1000, .io 0⟩, ⟨0xA000, 0x1000, .unimplemented⟩]
                otherwise := .ram }
    illegalAddress := behaviour }

/-- A state on that platform, its IRQ pin and reset line sampled quiet, with memory cells set. -/
def onMixed (cells : List (Nat × Byte)) : State :=
  { ready [] (st 0x7F 0xFF 0xFF 0x0000 0x1000 (fl 1 1 0 1 1 1)) cells with platform := mixed .fault }

/-- The same with the registers given. -/
def regs (a x h : Byte) (sp : Addr) : State := { onMixed [] with a := a, x := x, h := h, sp := sp }

theorem witness_DecodeUndoesEncode :
    (Instr.lda (.mem (.sp2 0xFFFF))).WellFormed ∧ (Instr.brset 7 0xFF 0x80).WellFormed ∧
    (Instr.cbeq (.sp1 0xFF) 0x80).WellFormed ∧ (Instr.mov (.imd 0x00 0xFF)).WellFormed ∧
    Instr.wait.WellFormed := by decide

theorem witness_DecodedBytesAreTheEncoding :
    decode [0x9E, 0xDF, 0xFF, 0xFF, 0x00] = .ok (.stx (.sp2 0xFFFF), [0x00]) ∧
    decode [0x00, 0x00, 0x80] = .ok (.brset 0 0x00 0x80, []) := by decide +kernel

/-- Both ends of each block of the map, under both behaviours of the hole. -/
theorem witness_AccessesFollowTheMemoryMap :
    (onMixed []).kindAt 0x0000 = .ram ∧ (onMixed []).kindAt 0x7FFF = .ram ∧ (onMixed []).kindAt 0xFFFF = .ram ∧
    (onMixed []).kindAt 0x8000 = .rom ∧ (onMixed []).kindAt 0x8FFF = .rom ∧
    (onMixed []).kindAt 0x9000 = .io 0 ∧ (onMixed []).kindAt 0x9FFF = .io 0 ∧
    (onMixed []).kindAt 0xA000 = .unimplemented ∧ (onMixed []).kindAt 0xAFFF = .unimplemented ∧
    (onMixed []).platform.illegalAddress = .fault ∧ (onMixed []).kindAt 0xB000 = .ram ∧
    { onMixed [] with platform := mixed .drawAndIgnore }.kindAt 0xA000 = .unimplemented ∧
    { onMixed [] with platform := mixed .drawAndIgnore }.platform.illegalAddress = .drawAndIgnore := by
  decide +kernel

/-- The addresses about the hole, the top of memory, and SP at both ends. -/
theorem witness_AccessSequencesAreTheirByteAccesses :
    (onMixed []).answers 0xFFFF = true ∧ (onMixed []).answers (0xFFFF + 1) = true ∧
    (onMixed []).answers 0x9FFE = true ∧ (onMixed []).answers (0x9FFE + 1) = true ∧
    (onMixed []).answers (onMixed []).sp = true ∧ (onMixed []).answers ((onMixed []).sp + 1) = true ∧
    (regs 0 0 0 0xFFFF).answers (regs 0 0 0 0xFFFF).sp = true ∧
    (regs 0 0 0 0xFFFF).answers ((regs 0 0 0 0xFFFF).sp + 1) = true ∧
    (regs 0 0 0 0xAFFF).answers ((regs 0 0 0 0xAFFF).sp + 1) = true ∧
    (onMixed []).answers 0xA000 = false := by decide +kernel

theorem witness_LoadsSetRegisterAndFlags :
    srcAnswers (.imm 0xFF) (onMixed []) ∧ srcAnswers (.mem (.ix2 0xFFFF)) (onMixed []) ∧
    srcAnswers (.mem (.ext 0x9FFF)) (onMixed []) ∧ srcAnswers (.mem (.sp1 0xFF)) (onMixed []) ∧
    src16Answers (.imm 0x8000) (onMixed []) ∧ src16Answers (.dir 0xFF) (onMixed []) := by decide +kernel

theorem witness_StoresWriteMemoryAndFlags :
    (onMixed []).answers (ea (.ext 0x9FFF) (onMixed [])) = true ∧
    (onMixed []).answers (ea .ix (onMixed [])) = true ∧ (onMixed []).answers (ea (.sp2 0xB000) (onMixed [])) = true ∧
    (onMixed []).answers (directAddr 0xFF) = true ∧ (onMixed []).answers (directAddr 0xFF + 1) = true := by
  decide +kernel

/-- SP at $0000 for the pushes, at $FFFF for the pulls. -/
theorem witness_PushesAndPullsMoveOneByte :
    (regs 0x80 0x81 0x82 0x0000).answers (regs 0x80 0x81 0x82 0x0000).sp = true ∧
    (regs 0x80 0x81 0x82 0xFFFF).answers ((regs 0x80 0x81 0x82 0xFFFF).sp + 1) = true := by decide +kernel

/-- A stack that wraps at the top for the frame, and one that wraps for the pulls. -/
theorem witness_CcrByteHoldsSixFlags :
    (∀ a ∈ pushAddrs (regs 0 0 0 0x0002).sp 5, (regs 0 0 0 0x0002).isRam a) ∧
    (regs 0 0 0 0xFFFD).allAnswer (pullAddrs (regs 0 0 0 0xFFFD).sp 5) :=
  ⟨all_of (by decide +kernel), all_of (by decide +kernel)⟩

/-- H:X at $FFFF and at the address before the hole. -/
theorem witness_MovCopiesOneByte :
    (onMixed []).answers (directAddr 0x00) = true ∧ (onMixed []).answers (directAddr 0xFF) = true ∧
    (onMixed []).hx = 0xFFFF ∧ (onMixed []).answers (onMixed []).hx = true ∧
    (regs 0 0xFF 0x9F 0xFF).hx = 0x9FFF ∧ (regs 0 0xFF 0x9F 0xFF).answers (regs 0 0xFF 0x9F 0xFF).hx = true := by
  decide +kernel

theorem witness_AdditionsSumAndSetFlags :
    srcAnswers (.imm 0x80) (onMixed []) ∧ srcAnswers (.mem (.dir 0xFF)) (onMixed []) ∧
    srcAnswers (.mem (.sp2 0xFFFF)) (onMixed []) := by decide +kernel

theorem witness_SubtractionsBorrowAndSetFlags :
    srcAnswers (.imm 0xFF) (onMixed []) ∧ srcAnswers (.mem (.ext 0x8FFF)) (onMixed []) ∧
    srcAnswers (.mem (.ix1 0xFF)) (onMixed []) := by decide +kernel

theorem witness_ComparesSetFlagsOnly :
    srcAnswers (.imm 0x80) (onMixed []) ∧ srcAnswers (.mem .ix) (onMixed []) ∧
    src16Answers (.imm 0xFFFF) (onMixed []) ∧ src16Answers (.dir 0x00) (onMixed []) := by decide +kernel

/-- The largest quotient that fits, the smallest that does not, and a zero divisor. -/
theorem witness_DivGivesQuotientOrFreeValues :
    (regs 0xFF 0x10 0x0F 0xFF).h.toNat < (regs 0xFF 0x10 0x0F 0xFF).x.toNat ∧
    (regs 0x00 0x10 0x10 0xFF).x.toNat ≤ (regs 0x00 0x10 0x10 0xFF).h.toNat ∧
    (regs 0x00 0x00 0x00 0xFF).x.toNat ≤ (regs 0x00 0x00 0x00 0xFF).h.toNat := by decide +kernel

/-- The four memory forms of the read-modify-write group, at the ends of their ranges. -/
theorem witness_IncrementsAndDecrementsKeepCarry :
    (onMixed []).answers (ea (rmwMem (.dir 0xFF)) (onMixed [])) = true ∧
    (onMixed []).answers (ea (rmwMem (.ix1 0xFF)) (onMixed [])) = true ∧
    (onMixed []).answers (ea (rmwMem .ix) (onMixed [])) = true ∧
    (onMixed []).answers (ea (rmwMem (.sp1 0xFF)) (onMixed [])) = true := by decide +kernel

theorem witness_ComplementAndNegate :
    (regs 0 0 0x90 0xFF).answers (ea (rmwMem (.ix1 0xFF)) (regs 0 0 0x90 0xFF)) = true ∧
    (regs 0 0 0x90 0xFF).answers (ea (rmwMem (.sp1 0x00)) (regs 0 0 0x90 0xFF)) = true := by decide +kernel

/-- Under both values of ClrReadsFirst. -/
theorem witness_ClearsAndTests :
    (regs 0 0xFF 0x9F 0xFF).answers (ea (rmwMem .ix) (regs 0 0xFF 0x9F 0xFF)) = true ∧
    { onMixed [] with platform := { mixed .fault with clrReadsFirst := true } }.answers
      (ea (rmwMem (.dir 0xFF)) (onMixed [])) = true := by decide +kernel

theorem witness_LogicCombinesBitByBit :
    srcAnswers (.imm 0x00) (onMixed []) ∧ srcAnswers (.mem (.ext 0xB000)) (onMixed []) := by decide +kernel

theorem witness_BitInstructionsChangeOneBit :
    (onMixed []).answers (directAddr 0x00) = true ∧ (onMixed []).answers (directAddr 0xFF) = true ∧ 7 < 8 := by
  decide +kernel

theorem witness_ShiftsAndRotatesMoveOnePlace :
    (regs 0x80 0x01 0x00 0xFF).answers (ea (rmwMem (.ix1 0xFF)) (regs 0x80 0x01 0x00 0xFF)) = true ∧
    (regs 0x80 0x01 0x00 0xFF).answers (ea (rmwMem (.sp1 0xFF)) (regs 0x80 0x01 0x00 0xFF)) = true := by
  decide +kernel

/-- States in which each condition of the conditional branches holds, and states in which it does not. -/
theorem witness_BranchesFollowTheirConditions :
    ((fl 0 0 0 0 0 0).c = false ∧ (fl 0 0 0 0 0 1).c = true) ∧ ((fl 0 0 0 0 0 0).hc = false ∧ (fl 0 1 0 0 0 0).hc = true) ∧
    ((fl 0 0 0 0 0 0).z = false ∧ (fl 0 0 0 0 1 0).z = true) ∧ ((fl 0 0 0 0 0 0).n = false ∧ (fl 0 0 0 1 0 0).n = true) ∧
    ((fl 1 0 0 1 0 0).n = (fl 1 0 0 1 0 0).v ∧ (fl 1 0 0 0 0 0).n ≠ (fl 1 0 0 0 0 0).v) ∧
    ((fl 0 0 0 0 0 0).i = false ∧ (fl 0 0 1 0 0 0).i = true) ∧
    ((onMixed []).irqPin = true ∧ { onMixed [] with irqPin := false }.irqPin = false) := by decide +kernel

/-- Equal operands, and the operands whose signed and unsigned orders differ. -/
theorem witness_BranchesAfterCompareOrderTheOperands :
    (∃ t, exec (.cmp (.imm 0x7F)) (regs 0x7F 0 0 0xFF) = .next t) ∧
    (∃ t, exec (.cmp (.imm 0x7F)) (regs 0x80 0 0 0xFF) = .next t) ∧
    (∃ t, exec (.cmp (.imm 0x80)) (regs 0x7F 0 0 0xFF) = .next t) := ⟨next_of _ (by decide +kernel), next_of _ (by decide +kernel), next_of _ (by decide +kernel)⟩

theorem witness_BitBranchesTestOneBit :
    (onMixed [(0xFF, 0x80)]).answers (directAddr 0xFF) = true ∧ (onMixed [(0xFF, 0x80)]).answers (directAddr 0x00) = true := by
  decide +kernel

/-- An X+ form and a form without post-increment. -/
theorem witness_CompareAndBranchIfEqual :
    (onMixed []).answers (ea (cbeqMem (.ix1Plus 0xFF)) (onMixed [])) = true ∧
    (CbeqMode.ix1Plus 0xFF = .ixPlus ∨ ∃ ff, CbeqMode.ix1Plus 0xFF = .ix1Plus ff) ∧
    (onMixed []).answers (ea (cbeqMem (.sp1 0xFF)) (onMixed [])) = true ∧
    ¬ (CbeqMode.sp1 0xFF = .ixPlus ∨ ∃ ff, CbeqMode.sp1 0xFF = .ix1Plus ff) :=
  ⟨by decide +kernel, .inr ⟨_, rfl⟩, by decide +kernel, by simp⟩

theorem witness_DecrementAndBranchIfNotZero :
    (onMixed []).answers (ea (rmwMem (.dir 0x00)) (onMixed [])) = true ∧
    (onMixed []).answers (ea (rmwMem (.sp1 0xFF)) (onMixed [])) = true := by decide +kernel

/-- SP at $0000 for a call (it wraps) and at $FFFE for a return. -/
theorem witness_JumpsCallsAndReturns :
    (regs 0 0 0 0x0000).allAnswer (pushAddrs 0x0000 2) ∧ (regs 0 0 0 0xFFFE).allAnswer (pullAddrs 0xFFFE 2) :=
  ⟨all_of (by decide +kernel), all_of (by decide +kernel)⟩

theorem witness_CallThenReturnComesBack :
    (regs 0 0 0 0x0000).isRam (regs 0 0 0 0x0000).sp ∧ (regs 0 0 0 0x0000).isRam ((regs 0 0 0 0x0000).sp - 1) := by
  decide +kernel

/-- A stack that wraps below $0000. -/
theorem witness_SwiTakesTheException :
    (∀ a ∈ pushAddrs (regs 0 0 0 0x0002).sp 5, (regs 0 0 0 0x0002).isRam a) ∧
    (regs 0 0 0 0x0002).isMemory 0xFFFC ∧ (regs 0 0 0 0x0002).isMemory 0xFFFD :=
  ⟨all_of (by decide +kernel), by decide +kernel, by decide +kernel⟩

theorem witness_RtiPullsTheFrame :
    (regs 0 0 0 0xFFFD).allAnswer (pullAddrs (regs 0 0 0 0xFFFD).sp 5) :=
  all_of (by decide +kernel)

theorem witness_TrapThenReturnRestores :
    (∀ a ∈ pushAddrs (regs 0x11 0x22 0x33 0x0002).sp 5, (regs 0x11 0x22 0x33 0x0002).isRam a) ∧
    (regs 0x11 0x22 0x33 0x0002).answers 0xFFFC = true ∧
    (regs 0x11 0x22 0x33 0x0002).answers (0xFFFC + 1) = true :=
  ⟨all_of (by decide +kernel), by decide +kernel, by decide +kernel⟩

/-- A state on the last corner of each row of the table, and one on no row. -/
theorem witness_DaaFollowsItsTable :
    daaMatches (true, (0, 3), true, (0, 3), 0x66, true) { regs 0x33 0 0 0xFF with ccr := fl 0 1 0 0 0 1 } ∧
    daaMatches (false, (9, 15), false, (10, 15), 0x66, true) { regs 0x9A 0 0 0xFF with ccr := fl 0 0 0 0 0 0 } ∧
    daaMatches (false, (0, 9), false, (0, 9), 0x00, false) { regs 0x99 0 0 0xFF with ccr := fl 0 0 0 0 0 0 } ∧
    (∀ row ∈ daaTable, ¬ daaMatches row { regs 0x07 0 0 0xFF with ccr := fl 0 1 0 0 0 0 }) := by decide +kernel

/-- ADC of two packed-BCD bytes and DAA after it both run. -/
def addsDecimally (p q : Nat) (c : Bool) : Bool :=
  match exec (.adc (.imm (packedBcd q))) { regs (packedBcd p) 0 0 0xFF with ccr := { fl 0 0 0 0 0 0 with c := c } } with
  | .next t => isNext (exec .daa t)
  | _ => false

/-- 99 + 99 + 1 and 0 + 0. -/
theorem witness_DaaAfterAdcAddsDecimally :
    99 < 100 ∧ packedBcd 99 = 0x99 ∧ addsDecimally 99 99 true = true ∧ packedBcd 0 = 0x00 ∧
    addsDecimally 0 0 false = true := by decide +kernel

theorem witness_WaitAndStopEnterTheirModes :
    (onMixed []).platform.stopEnabled = true ∧
    { onMixed [] with platform := { mixed .fault with stopEnabled := false } }.platform.stopEnabled = false := by
  decide +kernel

/-- An instruction that writes nothing, and instructions that write one register each and not the others. -/
theorem witness_RegistersChangeOnlyByTheirWriters :
    (∃ t, exec .nop (onMixed []) = .next t) ∧ writesA .nop = false ∧ writesX .nop = false ∧
    writesH .nop = false ∧ writesSp .nop = false ∧ writesPc .nop = false ∧
    (∃ t, exec (.ldx (.imm 0xFF)) (onMixed []) = .next t) ∧ writesA (.ldx (.imm 0xFF)) = false ∧
    writesH (.ldx (.imm 0xFF)) = false ∧ (∃ t, exec .psha (onMixed []) = .next t) ∧ writesX .psha = false :=
  ⟨next_of _ (by decide +kernel), rfl, rfl, rfl, rfl, rfl, next_of _ (by decide +kernel), rfl, rfl, next_of _ (by decide +kernel), rfl⟩

/-- SUB writes every flag but HC and I; AIX writes none. -/
theorem witness_FlagsChangeOnlyByTheirWriters :
    (∃ t, exec (.sub (.imm 0xFF)) (onMixed []) = .next t) ∧ writesHalfCarry (.sub (.imm 0xFF)) = false ∧
    writesMask (.sub (.imm 0xFF)) = false ∧ (∃ t, exec (.aix 0x80) (onMixed []) = .next t) ∧
    writesV (.aix 0x80) = false ∧ writesN (.aix 0x80) = false ∧ writesZ (.aix 0x80) = false ∧
    writesCarry (.aix 0x80) = false := ⟨next_of _ (by decide +kernel), rfl, rfl, next_of _ (by decide +kernel), rfl, rfl, rfl, rfl⟩

/-- A store at the top of memory with the addresses about it, and a form that stores nothing. -/
theorem witness_MemoryChangesOnlyAtStoreAddresses :
    (∃ t, exec (.sta (.ext 0xFFFF)) (onMixed []) = .next t) ∧
    0xFFFE ∉ storeAddrs (.sta (.ext 0xFFFF)) (onMixed []) ∧ 0x0000 ∉ storeAddrs (.sta (.ext 0xFFFF)) (onMixed []) ∧
    (∃ t, exec (.tst (.dir 0xFF)) (onMixed []) = .next t) ∧ 0x00FF ∉ storeAddrs (.tst (.dir 0xFF)) (onMixed []) :=
  ⟨next_of _ (by decide +kernel), by decide +kernel, by decide +kernel, next_of _ (by decide +kernel), by decide +kernel⟩

theorem witness_HiddenStateChangesOnlyAsNamed :
    (∃ t, exec .sei (onMixed []) = .next t) ∧ Instr.sei ≠ .cli ∧ writesMode .sei = false ∧
    (∃ t, exec .wait (onMixed []) = .next t) ∧ Instr.wait ≠ .cli :=
  ⟨next_of _ (by decide +kernel), by decide, rfl, next_of _ (by decide +kernel), by decide⟩

/-- A load from both ends of the hole, and a STOP that the platform disables. -/
theorem witness_OnlyTheTwoNamedFaults :
    (∃ f, exec (.lda (.mem (.ext 0xA000))) (onMixed []) = .fault f) ∧
    (∃ f, exec (.lda (.mem (.ext 0xAFFF))) (onMixed []) = .fault f) ∧
    (∃ f, exec .stop { onMixed [] with platform := { mixed .fault with stopEnabled := false } } = .fault f) :=
  ⟨fault_of _ (by decide +kernel), fault_of _ (by decide +kernel), fault_of _ (by decide +kernel)⟩

/-- The longest instruction across the wrap of PC, and the shortest with a stale byte right after it. -/
theorem witness_StepRunsTheDecodedInstruction :
    (let s := { onMixed [(0xFFFE, 0x9E), (0xFFFF, 0x61), (0x0000, 0xFF), (0x0001, 0x80)] with pc := 0xFFFE }
     s.sampled.resetRequested = false ∧ s.sampled.recognised = none ∧ s.mode = .running ∧
     (∀ k < 4, s.isMemory (s.pc + BitVec.ofNat 16 k) ∧ s.staleAt (s.pc + BitVec.ofNat 16 k) = none) ∧
     decode (bytesAt s.mem s.pc 4) = .ok (.cbeq (.sp1 0xFF) 0x80, [])) ∧
    (let s := { onMixed [(0x7FFF, 0x9D)] with pc := 0x7FFF, stale := [⟨0x8000, 0x8000, 0x9D⟩] }
     s.sampled.resetRequested = false ∧ s.sampled.recognised = none ∧ s.mode = .running ∧
     (∀ k < 1, s.isMemory (s.pc + BitVec.ofNat 16 k) ∧ s.staleAt (s.pc + BitVec.ofNat 16 k) = none) ∧
     decode (bytesAt s.mem s.pc 1) = .ok (.nop, [])) := by
  decide +kernel

/-- An illegal first byte, and the prefix with an illegal second byte across the wrap of PC. -/
theorem witness_IllegalEncodingStopsTheStep :
    (let s := onMixed [(0x1000, 0xAC)]
     s.sampled.resetRequested = false ∧ s.sampled.recognised = none ∧ s.mode = .running ∧
     s.isMemory s.pc ∧ s.staleAt s.pc = none ∧
     s.mem.read s.pc.toNat ∈ ([0x32, 0x3E, 0x82, 0x8D, 0x96, 0xAC] : List Byte)) ∧
    (let s := { onMixed [(0xFFFF, 0x9E), (0x0000, 0x62)] with pc := 0xFFFF }
     s.sampled.resetRequested = false ∧ s.sampled.recognised = none ∧ s.mode = .running ∧
     s.isMemory s.pc ∧ s.staleAt s.pc = none ∧ s.mem.read s.pc.toNat = 0x9E ∧ s.isMemory (s.pc + 1) ∧
     s.staleAt (s.pc + 1) = none ∧
     decode [0x9E, s.mem.read (s.pc + 1).toNat] = .error (.illegalPage2 0x62)) := by decide +kernel

/-- The last byte of a four-byte instruction at a PCnext near the wrap is changed and control goes elsewhere; a
stale byte stands at PC; a step elsewhere leaves a stale byte; STA stores the value a byte holds already, and
another into the byte right after its PCnext's one-byte instruction. -/
theorem witness_OverwrittenNextByteIsOldOrNew :
    (let s := { onMixed [(0xFFFE, 0x9E), (0xFFFF, 0x61), (0x0000, 0xFF), (0x0001, 0x80)] with pc := 0xFFFE }
     let t := { s with mem := Memory.write s.mem 0x0001 0x9D, pc := 0x2000 }
     (∀ l < 4, s.isMemory (s.pc + BitVec.ofNat 16 l)) ∧
     decode (bytesAt s.mem s.pc 4) = .ok (.cbeq (.sp1 0xFF) 0x80, []) ∧ 3 < 4 ∧
     s.mem.read (s.pc + BitVec.ofNat 16 3).toNat ≠ t.mem.read (s.pc + BitVec.ofNat 16 3).toNat) ∧
    (let s := { onMixed [] with stale := [⟨0x1000, 0x1000, 0x4C⟩] }
     s.isMemory s.pc ∧ s.staleAt s.pc = some 0x4C) ∧
    (let s := { onMixed [(0x1000, 0x9D)] with stale := [⟨0x1001, 0x1001, 0x4C⟩] }
     (⟨0x1001, 0x1001, 0x4C⟩ ∈ s.stale) ∧ isNext (step s) = true) ∧
    (let s := onMixed [(0x1000, 0x9D)]
     0x0050 ∈ storeAddrs (.sta (.dir 0x50)) s ∧ s.isRam 0x0050 ∧ 0x1001 ∈ storeAddrs (.sta (.ext 0x1001)) s ∧
     s.isRam 0x1001 ∧
     (match exec (.sta (.dir 0x50)) { s with a := s.mem.read 0x50 } with
      | .next t => t.mem.read 0x50 == s.mem.read 0x50
      | _ => false) = true ∧
     (match exec (.sta (.ext 0x1001)) { s with a := 0x9D } with
      | .next t => t.mem.read 0x1001 == 0x9D && nextLength { s with a := 0x9D } t == 1
      | _ => false) = true) := by decide +kernel

/-- In each of the three modes, the IRQ source pending, on a stack that wraps. -/
theorem witness_InterruptEntryStacksAndVectors :
    (∀ m ∈ [RunMode.running, .waiting, .stopped],
      let s := interrupted { regs 0x11 0x22 0x33 0x0002 with mode := m }
      s.sampled.resetRequested = false ∧ s.ccr.i = false ∧ s.inhibitNext = false ∧
      highest s.sampled.candidates = some Config.irqSource ∧
      s.isMemory Config.irqSource.vector ∧ s.isMemory (Config.irqSource.vector + 1)) ∧
    ∀ a ∈ pushAddrs 0x0002 5, (interrupted (regs 0x11 0x22 0x33 0x0002)).isRam a :=
  ⟨by decide +kernel, all_of (by decide +kernel)⟩

/-- With a request pending: once with I set, once under the CLI delay; the delayed step goes on. -/
theorem witness_MaskAndCliDelayHoldInterrupts :
    (let s := interrupted { onMixed [(0x1000, 0x9D)] with ccr := fl 0 0 1 0 0 0 }
     s.sampled.resetRequested = false ∧ s.ccr.i = true ∧ s.sampled.pending = [Config.irqSource]) ∧
    (let s := interrupted { onMixed [(0x1000, 0x9D)] with inhibitNext := true }
     s.sampled.resetRequested = false ∧ s.inhibitNext = true ∧
     (match step s with
      | .next t => t.pc == 0x1001
      | _ => false) = true) := by decide +kernel

theorem witness_InstructionAfterCliRunsFirst :
    ∃ t, exec .cli (interrupted (onMixed [])) = .next t ∧ t.sampled.resetRequested = false :=
  ⟨_, rfl, by decide +kernel⟩

/-- Three requests: the winner shares its priority with a source of a lower vector. -/
theorem witness_HighestPrioritySourceIsTaken :
    let p : Config.IntSource := ⟨0xFFF6, 1, false, true⟩
    let q : Config.IntSource := ⟨0xFFF4, 1, true, true⟩
    let s := { regs 0 0 0 0xFF with
      platform := { mixed .fault with intSources := [Config.irqSource, q, p] }, pending := [Config.irqSource, q, p] }
    s.recognised = some p ∧ q ∈ s.candidates ∧ Config.irqSource ∈ s.candidates := by decide +kernel

/-- WAIT with nothing pending; STOP with a request that does not wake it. -/
theorem witness_IdleModesHoldUntilARequest :
    (let s := { onMixed [] with mode := .waiting }
     s.sampled.resetRequested = false ∧ ∀ p ∈ s.sampled.pending, p ∉ s.platform.intSources) ∧
    (let p : Config.IntSource := ⟨0xFFF6, 1, false, true⟩
     let s := { onMixed [] with
       mode := .stopped, pending := [p], platform := { mixed .fault with intSources := [p] } }
     s.sampled.resetRequested = false ∧ s.sampled.pending = [p] ∧
     ∀ p ∈ s.sampled.pending, p ∈ s.platform.intSources → p.wakesStop = false) := by decide +kernel

theorem witness_ResetStepWritesOnlyItsRegisters :
    let s := { onMixed [(0xFFFE, 0x80)] with
      inputs := [{ resetRequested := true, irqPin := true, raised := [], withdrawn := [] }] }
    s.sampled.resetRequested = true ∧ s.isMemory 0xFFFE ∧ s.isMemory 0xFFFF := by decide +kernel

/-- The waiting state with a stale byte at its PC. -/
def waitingStale : State := { waitingP7 with stale := [⟨0x8002, 0x8002, 0x9D⟩] }

theorem waiting_inv : waitingStale.Inv :=
  ⟨by decide +kernel, fun _ => by decide +kernel, by decide +kernel, by decide +kernel, by decide +kernel,
    by decide +kernel⟩

/-- A state that is not the reset state meets the invariant and steps. -/
theorem witness_EveryStepKeepsTheInvariant : waitingStale.Inv ∧ ∃ t, step waitingStale = .next t :=
  ⟨waiting_inv, next_of _ (by decide +kernel)⟩

theorem witness_StepsKeepPlatformAndDraws :
    (∃ t, step waitingP7 = .next t) ∧
    (∃ t, step (onMixed [(0x1000, 0x9D)]) = .next t) :=
  ⟨next_of _ (by decide +kernel), next_of _ (by decide +kernel)⟩

/-- The instruction of the most cycles (SWI) and one of the fewest (NOP). -/
theorem witness_InstructionsAddTheirBusCycles :
    ∀ c ∈ [((0x83 : Byte), Instr.swi), (0x9D, .nop)],
      let s := onMixed [(0x1000, c.1)]
      s.sampled.resetRequested = false ∧ s.sampled.recognised = none ∧ s.mode = .running ∧
      (match fetchInstr (s.sampled.setInhibitNext false) with
        | .ok (i, u) => decide (i = c.2) && isNext (exec i u)
        | .error _ => false) = true ∧
      isNext (step s) = true := by decide +kernel

end Sys2Proof.Tests
end

section
/-! PROOFS for 00_scope.md: what no step takes back (R6, R11). Platform, draws and cycles are carried through the
state's operations, the shapes of instructions, every instruction, the fetch and the step, in this order. -/

namespace Sys2Proof.Machine

/-- From the first state to the second the platform stays, no draw is taken back and the cycle count does not
fall. -/
structure Onward (s t : State) : Prop where
  platform : t.platform = s.platform
  draws : s.draws ≤ t.draws
  cycles : s.cycles ≤ t.cycles

namespace Onward

variable {s t u : State}

@[simp, refl] theorem refl (s : State) : Onward s s := ⟨rfl, Nat.le_refl _, Nat.le_refl _⟩

theorem trans (h : Onward s t) (k : Onward t u) : Onward s u :=
  ⟨k.platform.trans h.platform, Nat.le_trans h.draws k.draws, Nat.le_trans h.cycles k.cycles⟩

/-- Only platform, draws and cycles of the later state matter. -/
theorem congr (hp : t.platform = u.platform) (hd : t.draws = u.draws) (hc : t.cycles = u.cycles) :
    Onward s t ↔ Onward s u :=
  ⟨fun ⟨p, d, c⟩ => ⟨hp ▸ p, hd ▸ d, hc ▸ c⟩, fun ⟨p, d, c⟩ => ⟨hp ▸ p, hd ▸ d, hc ▸ c⟩⟩

/-! ## Operations that touch none of the three -/

@[simp] theorem setA_iff (v : Byte) : Onward s (t.setA v) ↔ Onward s t := congr rfl rfl rfl
@[simp] theorem setX_iff (v : Byte) : Onward s (t.setX v) ↔ Onward s t := congr rfl rfl rfl
@[simp] theorem setH_iff (v : Byte) : Onward s (t.setH v) ↔ Onward s t := congr rfl rfl rfl
@[simp] theorem setHx_iff (v : Addr) : Onward s (t.setHx v) ↔ Onward s t := congr rfl rfl rfl
@[simp] theorem setSp_iff (v : Addr) : Onward s (t.setSp v) ↔ Onward s t := congr rfl rfl rfl
@[simp] theorem setPc_iff (v : Addr) : Onward s (t.setPc v) ↔ Onward s t := congr rfl rfl rfl
@[simp] theorem setCcr_iff (f : Ccr) : Onward s (t.setCcr f) ↔ Onward s t := congr rfl rfl rfl
@[simp] theorem setI_iff (b : Bool) : Onward s (t.setI b) ↔ Onward s t := congr rfl rfl rfl
@[simp] theorem setMode_iff (m : RunMode) : Onward s (t.setMode m) ↔ Onward s t := congr rfl rfl rfl
@[simp] theorem setInhibitNext_iff (b : Bool) : Onward s (t.setInhibitNext b) ↔ Onward s t := congr rfl rfl rfl
@[simp] theorem setStale_iff (l : List StaleByte) : Onward s (t.setStale l) ↔ Onward s t := congr rfl rfl rfl
@[simp] theorem bumpHx_iff : Onward s t.bumpHx ↔ Onward s t := congr rfl rfl rfl
@[simp] theorem movFlags_iff (v : Byte) : Onward s (movFlags v t) ↔ Onward s t := congr rfl rfl rfl

@[simp] theorem afterWrite_iff (a : Addr) (v : Byte) : Onward s (t.afterWrite a v) ↔ Onward s t :=
  congr (by simp) (by simp) (by simp)
@[simp] theorem pushed_iff (v : Byte) : Onward s (t.pushed v) ↔ Onward s t :=
  congr (by simp) (by simp) (by simp)
@[simp] theorem branchIf_iff (c : Bool) (rr : Byte) : Onward s (t.branchIf c rr) ↔ Onward s t :=
  congr (by simp) (by simp) (by simp)
@[simp] theorem cbeqIncrement_iff (m : CbeqMode) : Onward s (cbeqIncrement m t) ↔ Onward s t :=
  congr (by simp) (by simp) (by simp)
@[simp] theorem acknowledge_iff (p : Config.IntSource) : Onward s (t.acknowledge p) ↔ Onward s t :=
  congr (by simp) (by simp) (by simp)

/-! ## Operations that draw or add cycles -/

theorem setDraws {n : Nat} (h : s.draws ≤ n) : Onward s (s.setDraws n) := ⟨rfl, h, Nat.le_refl _⟩

theorem afterRead (h : Onward s t) (a : Addr) : Onward s (t.afterRead a) :=
  h.trans ⟨by simp, t.afterRead_draws_le a, by simp⟩

theorem pulled (h : Onward s t) : Onward s t.pulled := (setSp_iff _).mpr (h.afterRead _)

theorem srcAfter (m : Src) (s : State) : Onward s (srcAfter m s) := by
  cases m with
  | imm ii => exact refl s
  | mem m => exact (refl s).afterRead (ea m s)

theorem src16After (m : Src16) (s : State) : Onward s (src16After m s) := by
  cases m with
  | imm v => exact refl s
  | dir dd => exact ((refl s).afterRead (directAddr dd)).afterRead (directAddr dd + 1)

theorem chargeFree (h : Onward s t) : Onward s t.chargeFree :=
  h.trans ⟨rfl, Nat.le_succ _, Nat.le_add_right _ _⟩

theorem retire (h : Onward s t) (i : Instr) (before : State) : Onward s (retire i before t) :=
  h.trans ⟨rfl, Nat.le_refl _, Nat.le_add_right _ _⟩

/-- Sampling draws the pin level when no sample is left, and nothing otherwise. -/
theorem sampled (s : State) : Onward s s.sampled := by
  refine ⟨by simp, ?_, by simp⟩
  unfold State.sampled
  split
  · exact Nat.le_succ _
  · exact Nat.le_refl _

end Onward

/-! ## The shapes of instructions -/

section Shapes

variable {s t u : State}

/-- A meaning that always answers. -/
theorem onward_of_next (h : (Host.Outcome.next u : Result) = .next t) (hu : Onward s u) : Onward s t :=
  next_inj h ▸ hu

theorem accumulate_onward {op : Byte → Byte → Ccr → Byte × Ccr} {m : Src} (h : accumulate op m s = .next t) :
    Onward s t := by
  obtain ⟨_, rfl⟩ := accumulate_next.mp h
  simpa using Onward.srcAfter m s

theorem compare_onward {op : Byte → Byte → Ccr → Byte × Ccr} {reg : State → Byte} {m : Src}
    (h : compare op reg m s = .next t) : Onward s t := by
  obtain ⟨_, rfl⟩ := compare_next.mp h
  simpa using Onward.srcAfter m s

theorem load_onward {set : State → Byte → State} {m : Src} (hset : ∀ u v, Onward u (set u v))
    (h : load set m s = .next t) : Onward s t := by
  obtain ⟨_, rfl⟩ := load_next.mp h
  simpa using (Onward.srcAfter m s).trans (hset _ _)

theorem store_onward {v : Byte} {m : MemMode} (h : store v m s = .next t) : Onward s t := by
  obtain ⟨_, rfl⟩ := store_next.mp h
  simp

theorem modify_onward {op : Byte → Ccr → Byte × Ccr} {m : RmwMode} (h : modify op m s = .next t) :
    Onward s t := by
  obtain ⟨_, rfl⟩ := modify_next.mp h
  simpa using (Onward.refl s).afterRead _

theorem modifyA_onward {op : Byte → Ccr → Byte × Ccr} (h : modifyA op s = .next t) : Onward s t :=
  onward_of_next h (by simp)

theorem modifyX_onward {op : Byte → Ccr → Byte × Ccr} (h : modifyX op s = .next t) : Onward s t :=
  onward_of_next h (by simp)

theorem modifyBit_onward {op : Byte → Byte} {dd : Byte} (h : modifyBit op dd s = .next t) : Onward s t := by
  obtain ⟨_, rfl⟩ := modifyBit_next.mp h
  simpa using (Onward.refl s).afterRead _

theorem branch_onward {c : Bool} {rr : Byte} (h : branch c rr s = .next t) : Onward s t :=
  onward_of_next h (by simp)

theorem branchBit_onward {want : Bool} {n : BitNum} {dd rr : Byte} (h : branchBit want n dd rr s = .next t) :
    Onward s t := by
  obtain ⟨_, rfl⟩ := branchBit_next.mp h
  simpa using (Onward.refl s).afterRead _

theorem push8_onward {v : Byte} (h : answer (push8 v s) = .next t) : Onward s t := by
  obtain ⟨_, rfl⟩ := push8_next.mp h
  simp

theorem pull8_set_onward {set : State → Byte → State} (hset : ∀ u v, Onward u (set u v))
    (h : (answer do let (v, s) ← pull8 s; return set s v) = .next t) : Onward s t := by
  obtain ⟨_, rfl⟩ := pull8_set_next.mp h
  exact (Onward.refl s).pulled.trans (hset _ _)

theorem exec_mov_onward {m : MovMode} (h : exec (.mov m) s = .next t) : Onward s t := by
  obtain ⟨u, v, a, hu, -, ht⟩ := exec_mov_next h
  have hread : Onward s u := by
    rcases hu with rfl | ⟨b, rfl⟩
    · exact Onward.refl _
    · exact (Onward.refl s).afterRead b
  rcases ht with rfl | ⟨rfl, -, -⟩ <;> simpa using hread

theorem exec_clr_onward {m : RmwMode} (h : exec (.clr m) s = .next t) : Onward s t := by
  obtain ⟨u, hu, rfl⟩ := exec_clr_next h
  have hread : Onward s u := by
    rcases hu with rfl | rfl
    · exact Onward.refl _
    · exact (Onward.refl s).afterRead _
  simpa using hread

theorem jumpVector_onward {vector : Addr} (h : jumpVector vector s = .ok t) : Onward s t := by
  obtain ⟨_, _, rfl⟩ := jumpVector_ok.mp h
  simpa using ((Onward.refl s).afterRead _).afterRead _

theorem trapEntry_onward {vector ret : Addr} (h : trapEntry vector ret s = .ok t) : Onward s t := by
  obtain ⟨u, hpush, hjump⟩ := trapEntry_ok.mp h
  obtain ⟨_, _, _, _, _, rfl⟩ := pushFrame_ok.mp hpush
  exact Onward.trans (by simp) (jumpVector_onward hjump)

/-! ## Every instruction -/

/-- R6, R11: no instruction changes the platform, takes back a draw or lowers the cycle count. -/
theorem exec_onward {i : Instr} (h : exec i s = .next t) : Onward s t := by
  cases i
  case add | adc | sub | sbc | and | ora | eor =>
    simp only [exec_add, exec_adc, exec_sub, exec_sbc, exec_and, exec_ora, exec_eor] at h
    exact accumulate_onward h
  case cmp | cpx | bit =>
    simp only [exec_cmp, exec_cpx, exec_bit] at h
    exact compare_onward h
  case lda m => rw [exec_lda] at h; exact load_onward (by simp) h
  case ldx m => rw [exec_ldx] at h; exact load_onward (by simp) h
  case sta | stx =>
    simp only [exec_sta, exec_stx] at h
    exact store_onward h
  case inc | dec | com | neg | lsl | asl | asr | lsr | rol | ror =>
    simp only [exec_inc, exec_dec, exec_com, exec_neg, exec_lsl, exec_asl, exec_asr, exec_lsr, exec_rol,
      exec_ror] at h
    exact modify_onward h
  case inca | deca | coma | nega | lsla | asla | asra | lsra | rola | rora =>
    simp only [exec_inca, exec_deca, exec_coma, exec_nega, exec_lsla, exec_asla, exec_asra, exec_lsra,
      exec_rola, exec_rora] at h
    exact modifyA_onward h
  case incx | decx | comx | negx | lslx | aslx | asrx | lsrx | rolx | rorx =>
    simp only [exec_incx, exec_decx, exec_comx, exec_negx, exec_lslx, exec_aslx, exec_asrx, exec_lsrx,
      exec_rolx, exec_rorx] at h
    exact modifyX_onward h
  case bclr | bset =>
    simp only [exec_bclr, exec_bset] at h
    exact modifyBit_onward h
  case brclr | brset =>
    simp only [exec_brclr, exec_brset] at h
    exact branchBit_onward h
  case bcc | bcs | bhcc | bhcs | bhi | bhs | blo | bls | bpl | bmi | beq | bne | bge | bgt | ble | blt |
      bih | bil | bmc | bms | bra | cbeqa | cbeqx => exact branch_onward h
  case psha | pshh | pshx => exact push8_onward h
  case pula => exact pull8_set_onward (set := State.setA) (by simp) h
  case pulh => exact pull8_set_onward (set := State.setH) (by simp) h
  case pulx => exact pull8_set_onward (set := State.setX) (by simp) h
  -- registers, flags and modes only
  case tap | tpa | tax | txa | txs | tsx | mul | clra | clrx | clrh | tsta | tstx | ais | aix | clc | sec |
      cli | sei | brn | dbnza | dbnzx | jmp | nsa | rsp | nop | wait => exact onward_of_next h (by simp)
  -- meanings of their own
  case ldhx m => rw [exec_ldhx_next h]; simpa using Onward.src16After m s
  case cphx m => rw [exec_cphx_next h]; simpa using Onward.src16After m s
  case sthx => rw [exec_sthx_next h]; simp
  case mov => exact exec_mov_onward h
  case clr => exact exec_clr_onward h
  case tst => rw [exec_tst_next h]; simpa using (Onward.refl s).afterRead _
  case cbeq => rw [exec_cbeq_next h]; simpa using (Onward.refl s).afterRead _
  case dbnz => rw [exec_dbnz_next h]; simpa using (Onward.refl s).afterRead _
  case jsr => rw [exec_jsr_next h]; simp
  case bsr => rw [exec_bsr_next h]; simp
  case rts => rw [exec_rts_next h]; simpa using (Onward.refl s).pulled.pulled
  case swi => exact trapEntry_onward (answer_next.mp h)
  case rti => rw [exec_rti_next h]; simpa using (Onward.refl s).pulled.pulled.pulled.pulled.pulled
  case daa =>
    obtain ⟨d, a, f, rfl, hd, -, -⟩ := exec_daa_next h
    simpa using Onward.setDraws hd
  case div =>
    obtain ⟨d, q, r, z, c, rfl, hd⟩ := exec_div_next h
    simpa using Onward.setDraws hd
  case stop => rw [exec_stop_next h]; simp

/-! ## The fetch and the step -/

theorem fetchInstr_onward {i : Instr} (h : fetchInstr s = .ok (i, t)) : Onward s t := by
  obtain ⟨u, ⟨n, pc, hn, rfl⟩, rfl⟩ := fetchInstr_fetched h
  simpa using Onward.setDraws hn

theorem takeReset_onward (h : takeReset s = .ok t) : Onward s t :=
  (Onward.chargeFree (by simp)).trans (jumpVector_onward h)

theorem takeInterrupt_onward {p : Config.IntSource} (h : takeInterrupt p s = .ok t) : Onward s t :=
  (Onward.chargeFree (by simp)).trans (trapEntry_onward h)

/-- A step that answers goes on from its sample, whichever of the four things it does. -/
theorem step_onward (h : step s = .next t) : Onward s t := by
  have hsample : Onward s (s.sampled.setInhibitNext false) := by simpa using Onward.sampled s
  rcases step_next h with ⟨-, hreset⟩ | ⟨-, p, -, hint⟩ | ⟨-, -, -, i, u, v, hfetch, hexec, rfl⟩ | ⟨-, -, -, rfl⟩
  · exact (Onward.sampled s).trans (takeReset_onward hreset)
  · exact hsample.trans (takeInterrupt_onward hint)
  · exact (hsample.trans ((fetchInstr_onward hfetch).trans (exec_onward hexec))).retire i u
  · exact hsample

end Shapes

/-- Settles O59: the case analysis of a step, each case carried by the lemma on its parts. -/
theorem stepsKeepPlatformAndDraws : Obligations.StepsKeepPlatformAndDraws := by
  intro s t h
  obtain ⟨hplatform, hdraws, hcycles⟩ := step_onward h
  exact ⟨hplatform, hdraws, hcycles⟩

end Sys2Proof.Machine
end

section
/-! PROOFS for 10_state.md: the CCR as a byte and the state after reset (R34, R38), then what each instruction
leaves alone (R21 to R37): the flag computations, the state's operations, the shapes of instructions and every
instruction, in this order. -/

namespace Sys2Proof.Machine

/-! ## The CCR as a byte -/

/-- Bits 6 and 5 have no storage and read as 1 (R34). -/
theorem Ccr.toByte_fixed_bits (f : Ccr) : f.toByte.getLsbD 6 = true ∧ f.toByte.getLsbD 5 = true := by
  obtain ⟨v, hc, i, n, z, c⟩ := f
  revert v hc i n z c; decide

/-- The frame of an exception, pushed on RAM, holds the CCR byte at its lowest address (R302). -/
theorem frameMemory_read_ccr (ret : Addr) (s : State) :
    Memory.read (frameMemory ret s) (s.sp - 4).toNat = s.ccr.toByte :=
  Memory.read_write_same _ _ _

theorem pullAddrs_five (sp : Addr) :
    pullAddrs sp 5 = [sp + 1, sp + 1 + 1, sp + 1 + 1 + 1, sp + 1 + 1 + 1 + 1, sp + 1 + 1 + 1 + 1 + 1] := by
  simp [pullAddrs, List.range, List.range.loop, BitVec.add_assoc]

/-- RTI whose five reads answer takes the flags from the first byte it pulls (R272). -/
theorem exec_rti_ccr {s : State} (h : s.allAnswer (pullAddrs s.sp 5)) :
    ∃ t, exec .rti s = .next t ∧ t.ccr = .ofByte s.top := by
  simp only [pullAddrs_five, List.forall_mem_cons] at h
  obtain ⟨h1, h2, h3, h4, h5, -⟩ := h
  exact ⟨_, answer_next.mpr (returnFromTrap_ok.mpr ⟨h1, h2, h3, h4, h5, rfl⟩), rfl⟩

/-- Settles O13: reading back what was built gives the six flags; the frame and RTI by their closed forms. -/
theorem ccrByteHoldsSixFlags : Obligations.CcrByteHoldsSixFlags := by
  refine ⟨fun f => ?_, fun _ => rfl, fun _ => ⟨rfl, rfl⟩, fun ret s h => ?_, fun _ => exec_rti_ccr⟩
  · have hf := ofByte_toByte f
    obtain ⟨h6, h5⟩ := f.toByte_fixed_bits
    exact ⟨congrArg Ccr.v hf, h6, h5, congrArg Ccr.hc hf, congrArg Ccr.i hf, congrArg Ccr.n hf,
      congrArg Ccr.z hf, congrArg Ccr.c hf⟩
  · exact ⟨_, pushFrame_ram h ret, frameMemory_read_ccr ret s⟩

/-! ## The state after reset -/

/-- Settles O56: the fields of the reset state, and the two constant bits of its CCR. -/
theorem resetStateIsAsStated : Obligations.ResetStateIsAsStated :=
  ⟨rfl, rfl, rfl, rfl, rfl, rfl, Ccr.toByte_fixed_bits _⟩

/-- Settles O57: nothing is listed, requested or stale after reset, and the mode is Running. -/
theorem resetMeetsTheInvariant : Obligations.ResetMeetsTheInvariant where
  mem := ⟨List.Pairwise.nil, List.forall_mem_nil _⟩
  idle hmode := absurd rfl hmode
  pending := List.forall_mem_nil _
  distinct := List.nodup_nil
  stale := List.forall_mem_nil _
  staleOnce := List.nodup_nil

/-! ## Flags that an instruction does not write -/

/-- Every flag the instruction is not named as writing is the same in both (R28 to R33). -/
structure FlagsKept (i : Instr) (f g : Ccr) : Prop where
  overflow : writesV i = false → g.v = f.v
  halfCarry : writesHalfCarry i = false → g.hc = f.hc
  mask : writesMask i = false → g.i = f.i
  negative : writesN i = false → g.n = f.n
  zero : writesZ i = false → g.z = f.z
  carry : writesCarry i = false → g.c = f.c

namespace FlagsKept

variable {i : Instr} {f g : Ccr}

theorem refl (i : Instr) (f : Ccr) : FlagsKept i f f :=
  ⟨fun _ => rfl, fun _ => rfl, fun _ => rfl, fun _ => rfl, fun _ => rfl, fun _ => rfl⟩

theorem setHc (hf : FlagsKept i f g) (hw : writesHalfCarry i = true) (b : Bool) : FlagsKept i f { g with hc := b } :=
  { hf with halfCarry := by simp [hw] }
theorem setI (hf : FlagsKept i f g) (hw : writesMask i = true) (b : Bool) : FlagsKept i f { g with i := b } :=
  { hf with mask := by simp [hw] }
theorem setZ (hf : FlagsKept i f g) (hw : writesZ i = true) (b : Bool) : FlagsKept i f { g with z := b } :=
  { hf with zero := by simp [hw] }
theorem setC (hf : FlagsKept i f g) (hw : writesCarry i = true) (b : Bool) : FlagsKept i f { g with c := b } :=
  { hf with carry := by simp [hw] }

/-- An instruction that writes N writes V and Z too, so HC, I and C are left to see to. -/
theorem of_writesN (hn : writesN i = true) (halfCarry : writesHalfCarry i = false → g.hc = f.hc)
    (mask : writesMask i = false → g.i = f.i) (carry : writesCarry i = false → g.c = f.c) : FlagsKept i f g where
  overflow := by simp [writesV, hn]
  halfCarry := halfCarry
  mask := mask
  negative := by simp [hn]
  zero := by simp [writesZ, hn]
  carry := carry

/-- The operations that write N, Z and V only: loads, stores, logic, INC, DEC, CLR, TST. -/
theorem of_nzv (hn : writesN i = true) (hhc : g.hc = f.hc) (hi : g.i = f.i) (hc : g.c = f.c) : FlagsKept i f g :=
  of_writesN hn (fun _ => hhc) (fun _ => hi) (fun _ => hc)

/-- The operations that write N, Z, V and C: differences, COM, shifts and rotates. -/
theorem of_nzvc (hn : writesN i = true) (hw : writesCarry i = true) (hhc : g.hc = f.hc) (hi : g.i = f.i) :
    FlagsKept i f g :=
  of_writesN hn (fun _ => hhc) (fun _ => hi) (by simp [hw])

/-- The sums write every flag but I. -/
theorem of_allButMask (hn : writesN i = true) (hw : writesCarry i = true) (hh : writesHalfCarry i = true)
    (hi : g.i = f.i) : FlagsKept i f g :=
  of_writesN hn (by simp [hh]) (fun _ => hi) (by simp [hw])

/-- TAP and RTI write the whole register. -/
theorem of_all (hn : writesN i = true) (hw : writesCarry i = true) (hh : writesHalfCarry i = true)
    (hm : writesMask i = true) : FlagsKept i f g :=
  of_writesN hn (by simp [hh]) (by simp [hm]) (by simp [hw])

end FlagsKept

/-! ## What the state's operations write -/

/-- From the first state to the second only what the instruction is named as writing has changed: registers, flags
and hidden state by the lists of Safety; of memory and the stale bytes only the addresses of the list `stored`. -/
structure WritesOnly (i : Instr) (stored : List Addr) (s t : State) : Prop where
  a : writesA i = false → t.a = s.a
  x : writesX i = false → t.x = s.x
  h : writesH i = false → t.h = s.h
  sp : writesSp i = false → t.sp = s.sp
  pc : writesPc i = false → t.pc = s.pc
  flags : FlagsKept i s.ccr t.ccr
  mem : ∀ b ∉ stored, t.mem.read b.toNat = s.mem.read b.toNat
  stale : t.stale = s.staleOutside stored
  mode : writesMode i = false → t.mode = s.mode
  inhibitNext : i ≠ .cli → t.inhibitNext = s.inhibitNext
  pending : t.pending = s.pending
  irqPin : t.irqPin = s.irqPin
  resetRequested : t.resetRequested = s.resetRequested
  platform : t.platform = s.platform
  inputs : t.inputs = s.inputs
  cycles : t.cycles = s.cycles

namespace WritesOnly

variable {i : Instr} {stored : List Addr} {s t : State}

theorem refl (i : Instr) (s : State) : WritesOnly i [] s s where
  a _ := rfl
  x _ := rfl
  h _ := rfl
  sp _ := rfl
  pc _ := rfl
  flags := .refl i s.ccr
  mem _ _ := rfl
  stale := (State.staleOutside_nil s).symm
  mode _ := rfl
  inhibitNext _ := rfl
  pending := rfl
  irqPin := rfl
  resetRequested := rfl
  platform := rfl
  inputs := rfl
  cycles := rfl

section Updates

variable (hs : WritesOnly i stored s t)
include hs

theorem setA (hw : writesA i = true) (v : Byte) : WritesOnly i stored s (t.setA v) := { hs with a := by simp [hw] }
theorem setX (hw : writesX i = true) (v : Byte) : WritesOnly i stored s (t.setX v) := { hs with x := by simp [hw] }
theorem setH (hw : writesH i = true) (v : Byte) : WritesOnly i stored s (t.setH v) := { hs with h := by simp [hw] }
theorem setSp (hw : writesSp i = true) (v : Addr) : WritesOnly i stored s (t.setSp v) :=
  { hs with sp := by simp [hw] }
theorem setPc (hw : writesPc i = true) (v : Addr) : WritesOnly i stored s (t.setPc v) :=
  { hs with pc := by simp [hw] }
theorem setCcr {f : Ccr} (hf : FlagsKept i s.ccr f) : WritesOnly i stored s (t.setCcr f) := { hs with flags := hf }
theorem setI (hw : writesMask i = true) (b : Bool) : WritesOnly i stored s (t.setI b) :=
  hs.setCcr (hs.flags.setI hw b)
theorem setMode (hw : writesMode i = true) (m : RunMode) : WritesOnly i stored s (t.setMode m) :=
  { hs with mode := by simp [hw] }
theorem setInhibitNext (hw : i = .cli) (b : Bool) : WritesOnly i stored s (t.setInhibitNext b) :=
  { hs with inhibitNext := fun hne => absurd hw hne }
theorem setDraws (n : Nat) : WritesOnly i stored s (t.setDraws n) := { hs with }

theorem setHx (hx : writesX i = true) (hh : writesH i = true) (v : Addr) : WritesOnly i stored s (t.setHx v) :=
  (hs.setH hh _).setX hx _

theorem branchIf (hw : writesPc i = true) (c : Bool) (rr : Byte) : WritesOnly i stored s (t.branchIf c rr) := by
  unfold State.branchIf
  split
  · exact hs.setPc hw _
  · exact hs

theorem afterRead (a : Addr) : WritesOnly i stored s (t.afterRead a) := by
  rcases t.afterRead_eq a with e | e <;> rw [e]
  · exact hs
  · exact hs.setDraws _

/-- A store adds its address to the list. -/
theorem afterWrite (a : Addr) (v : Byte) : WritesOnly i (stored ++ [a]) s (t.afterWrite a v) where
  a := by simpa using hs.a
  x := by simpa using hs.x
  h := by simpa using hs.h
  sp := by simpa using hs.sp
  pc := by simpa using hs.pc
  flags := by simpa using hs.flags
  mem b hb := by
    have hb : b ∉ stored ∧ b ≠ a := by simpa using hb
    rw [State.afterWrite_read, if_neg fun h => hb.2 (BitVec.eq_of_toNat_eq h.1), hs.mem b hb.1]
  stale := by rw [State.afterWrite_stale, State.staleOutside_trans hs.stale hs.platform]
  mode := by simpa using hs.mode
  inhibitNext := by simpa using hs.inhibitNext
  pending := by simpa using hs.pending
  irqPin := by simpa using hs.irqPin
  resetRequested := by simpa using hs.resetRequested
  platform := by simpa using hs.platform
  inputs := by simpa using hs.inputs
  cycles := by simpa using hs.cycles

theorem pulled (hw : writesSp i = true) : WritesOnly i stored s t.pulled := (hs.afterRead _).setSp hw _

end Updates

theorem srcAfter (i : Instr) (m : Src) (s : State) : WritesOnly i [] s (srcAfter m s) := by
  cases m with
  | imm ii => exact refl i s
  | mem m => exact (refl i s).afterRead (ea m s)

theorem src16After (i : Instr) (m : Src16) (s : State) : WritesOnly i [] s (src16After m s) := by
  cases m with
  | imm v => exact refl i s
  | dir dd => exact ((refl i s).afterRead (directAddr dd)).afterRead (directAddr dd + 1)

end WritesOnly

/-- So far the instruction has pushed `n` bytes: SP is `n` lower, and the stores are those of `pushAddrs`. -/
structure Pushed (i : Instr) (n : Nat) (s t : State) : Prop where
  writesOnly : WritesOnly i (pushAddrs s.sp n) s t
  sp : t.sp = s.sp - BitVec.ofNat 16 n

theorem Pushed.zero (i : Instr) (s : State) : Pushed i 0 s s := ⟨.refl i s, by simp⟩

theorem Pushed.succ {i : Instr} {n : Nat} {s t : State} (hs : Pushed i n s t) (hw : writesSp i = true) (v : Byte) :
    Pushed i (n + 1) s (t.pushed v) where
  writesOnly := by
    rw [pushAddrs_succ, ← hs.sp]
    exact (hs.writesOnly.afterWrite t.sp v).setSp hw _
  sp := by rw [State.pushed_sp, hs.sp, BitVec.sub_sub, BitVec.ofNat_add]; rfl

/-! ## What the shapes of instructions write -/

section Shapes

variable {i : Instr} {stored : List Addr} {s t u : State}

/-- A meaning that always answers. -/
theorem writesOnly_of_next (h : (Host.Outcome.next u : Result) = .next t) (hu : WritesOnly i stored s u) :
    WritesOnly i stored s t :=
  next_inj h ▸ hu

theorem accumulate_writesOnly {op : Byte → Byte → Ccr → Byte × Ccr} {m : Src} (h : accumulate op m s = .next t)
    (ha : writesA i = true) (hf : ∀ a v f, FlagsKept i f (op a v f).2) : WritesOnly i [] s t := by
  obtain ⟨_, rfl⟩ := accumulate_next.mp h
  exact ((WritesOnly.srcAfter i m s).setA ha _).setCcr (by simpa using hf s.a (srcValue m s) s.ccr)

theorem compare_writesOnly {op : Byte → Byte → Ccr → Byte × Ccr} {reg : State → Byte} {m : Src}
    (h : compare op reg m s = .next t) (hf : ∀ a v f, FlagsKept i f (op a v f).2) : WritesOnly i [] s t := by
  obtain ⟨_, rfl⟩ := compare_next.mp h
  exact (WritesOnly.srcAfter i m s).setCcr (by simpa using hf _ (srcValue m s) s.ccr)

theorem load_writesOnly {set : State → Byte → State} {m : Src} (h : load set m s = .next t)
    (hset : ∀ u v, WritesOnly i [] s u → WritesOnly i [] s (set u v)) (hn : writesN i = true) :
    WritesOnly i [] s t := by
  obtain ⟨_, rfl⟩ := load_next.mp h
  rw [srcAfter_ccr]
  exact (hset _ _ (.srcAfter i m s)).setCcr (.of_nzv hn rfl rfl rfl)

theorem store_writesOnly {v : Byte} {m : MemMode} (h : store v m s = .next t) (hn : writesN i = true) :
    WritesOnly i [ea m s] s t := by
  obtain ⟨_, rfl⟩ := store_next.mp h
  exact ((WritesOnly.refl i s).afterWrite _ _).setCcr (.of_nzv hn rfl rfl rfl)

theorem modify_writesOnly {op : Byte → Ccr → Byte × Ccr} {m : RmwMode} (h : modify op m s = .next t)
    (hf : ∀ v f, FlagsKept i f (op v f).2) : WritesOnly i [ea (rmwMem m) s] s t := by
  obtain ⟨_, rfl⟩ := modify_next.mp h
  exact (((WritesOnly.refl i s).afterRead _).afterWrite _ _).setCcr (hf _ _)

theorem modifyA_writesOnly {op : Byte → Ccr → Byte × Ccr} (h : modifyA op s = .next t) (ha : writesA i = true)
    (hf : ∀ v f, FlagsKept i f (op v f).2) : WritesOnly i [] s t :=
  writesOnly_of_next h (((WritesOnly.refl i s).setA ha _).setCcr (hf _ _))

theorem modifyX_writesOnly {op : Byte → Ccr → Byte × Ccr} (h : modifyX op s = .next t) (hx : writesX i = true)
    (hf : ∀ v f, FlagsKept i f (op v f).2) : WritesOnly i [] s t :=
  writesOnly_of_next h (((WritesOnly.refl i s).setX hx _).setCcr (hf _ _))

theorem modifyBit_writesOnly {op : Byte → Byte} {dd : Byte} (h : modifyBit op dd s = .next t) :
    WritesOnly i [directAddr dd] s t := by
  obtain ⟨_, rfl⟩ := modifyBit_next.mp h
  exact ((WritesOnly.refl i s).afterRead _).afterWrite _ _

theorem branch_writesOnly {c : Bool} {rr : Byte} (h : branch c rr s = .next t) (hw : writesPc i = true) :
    WritesOnly i [] s t :=
  writesOnly_of_next h ((WritesOnly.refl i s).branchIf hw c rr)

theorem branchBit_writesOnly {want : Bool} {n : BitNum} {dd rr : Byte} (h : branchBit want n dd rr s = .next t)
    (hw : writesPc i = true) (hc : writesCarry i = true) : WritesOnly i [] s t := by
  obtain ⟨_, rfl⟩ := branchBit_next.mp h
  exact (((WritesOnly.refl i s).afterRead _).setCcr ((FlagsKept.refl i s.ccr).setC hc _)).branchIf hw _ _

theorem push8_writesOnly {v : Byte} (h : answer (push8 v s) = .next t) (hw : writesSp i = true) :
    WritesOnly i (pushAddrs s.sp 1) s t := by
  obtain ⟨_, rfl⟩ := push8_next.mp h
  exact ((Pushed.zero i s).succ hw v).writesOnly

theorem pull8_set_writesOnly {set : State → Byte → State}
    (h : (answer do let (v, s) ← pull8 s; return set s v) = .next t) (hw : writesSp i = true)
    (hset : ∀ u v, WritesOnly i [] s u → WritesOnly i [] s (set u v)) : WritesOnly i [] s t := by
  obtain ⟨_, rfl⟩ := pull8_set_next.mp h
  exact hset _ _ ((WritesOnly.refl i s).pulled hw)

/-! ## What the meanings of their own write -/

/-- MOV stores to one address, whatever its form. -/
theorem storeAddrs_mov (m : MovMode) (s : State) : ∃ a, storeAddrs (.mov m) s = [a] := by
  cases m <;> exact ⟨_, rfl⟩

theorem exec_mov_writesOnly {m : MovMode} (h : exec (.mov m) s = .next t) :
    WritesOnly (.mov m) (storeAddrs (.mov m) s) s t := by
  obtain ⟨u, v, a, hu, ha, ht⟩ := exec_mov_next h
  obtain ⟨b, hb⟩ := storeAddrs_mov m s
  obtain rfl : a = b := by simpa [hb] using ha
  have hread : WritesOnly (.mov m) [] s u := by
    rcases hu with rfl | ⟨c, rfl⟩
    · exact .refl _ _
    · exact (WritesOnly.refl _ s).afterRead c
  have hwrite := hread.afterWrite a v
  have hflags : FlagsKept (.mov m) s.ccr (u.ccr.moved8 v) :=
    .of_nzv rfl (hread.flags.halfCarry rfl) (hread.flags.mask rfl) (hread.flags.carry rfl)
  rw [hb]
  rcases ht with rfl | ⟨rfl, hx, hh⟩
  · exact hwrite.setCcr (by simpa using hflags)
  · exact (hwrite.setHx hx hh _).setCcr (by simpa using hflags)

theorem exec_clr_writesOnly {m : RmwMode} (h : exec (.clr m) s = .next t) :
    WritesOnly (.clr m) [ea (rmwMem m) s] s t := by
  obtain ⟨u, hu, rfl⟩ := exec_clr_next h
  have hread : WritesOnly (.clr m) [] s u := by
    rcases hu with rfl | rfl
    · exact .refl _ _
    · exact (WritesOnly.refl _ s).afterRead _
  exact (hread.afterWrite _ _).setCcr (.of_nzv rfl rfl rfl rfl)

/-- The X+ forms of CBEQ, and only they, step H:X. -/
theorem cbeqIncrement_writesOnly {m : CbeqMode} {rr : Byte} (hu : WritesOnly (.cbeq m rr) [] s u) :
    WritesOnly (.cbeq m rr) [] s (cbeqIncrement m u) := by
  cases m with
  | dir | sp1 => exact hu
  | ixPlus | ix1Plus => exact hu.setHx rfl rfl _

theorem exec_swi_writesOnly (h : exec .swi s = .next t) : WritesOnly .swi (pushAddrs s.sp 5) s t := by
  obtain ⟨w, rfl⟩ := exec_swi_next h
  have hframe := (((((Pushed.zero .swi s).succ rfl (loByte s.pc)).succ rfl (hiByte s.pc)).succ rfl s.x).succ
    rfl s.a).succ rfl s.ccr.toByte
  exact ((((hframe.writesOnly.setI rfl true).setMode rfl .running).afterRead _).afterRead _).setPc rfl w

end Shapes

/-! ## Every instruction -/

/-- R21 to R37: an instruction writes what it is named as writing and nothing else. -/
theorem exec_writesOnly {i : Instr} {s t : State} (h : exec i s = .next t) :
    WritesOnly i (storeAddrs i s) s t := by
  have hrefl := WritesOnly.refl i s
  cases i
  -- an operand and a register
  case add | adc =>
    simp only [exec_add, exec_adc] at h
    exact accumulate_writesOnly h rfl fun _ _ _ => .of_allButMask rfl rfl rfl rfl
  case sub | sbc =>
    simp only [exec_sub, exec_sbc] at h
    exact accumulate_writesOnly h rfl fun _ _ _ => .of_nzvc rfl rfl rfl rfl
  case and | ora | eor =>
    simp only [exec_and, exec_ora, exec_eor] at h
    exact accumulate_writesOnly h rfl fun _ _ _ => .of_nzv rfl rfl rfl rfl
  case cmp | cpx =>
    simp only [exec_cmp, exec_cpx] at h
    exact compare_writesOnly h fun _ _ _ => .of_nzvc rfl rfl rfl rfl
  case bit =>
    rw [exec_bit] at h
    exact compare_writesOnly h fun _ _ _ => .of_nzv rfl rfl rfl rfl
  case lda => rw [exec_lda] at h; exact load_writesOnly h (fun _ v hu => hu.setA rfl v) rfl
  case ldx => rw [exec_ldx] at h; exact load_writesOnly h (fun _ v hu => hu.setX rfl v) rfl
  case sta | stx =>
    simp only [exec_sta, exec_stx] at h
    exact store_writesOnly h rfl
  -- read, modify, write
  case inc | dec =>
    simp only [exec_inc, exec_dec] at h
    exact modify_writesOnly h fun _ _ => .of_nzv rfl rfl rfl rfl
  case com | neg | lsl | asl | asr | lsr | rol | ror =>
    simp only [exec_com, exec_neg, exec_lsl, exec_asl, exec_asr, exec_lsr, exec_rol, exec_ror] at h
    exact modify_writesOnly h fun _ _ => .of_nzvc rfl rfl rfl rfl
  case inca | deca =>
    simp only [exec_inca, exec_deca] at h
    exact modifyA_writesOnly h rfl fun _ _ => .of_nzv rfl rfl rfl rfl
  case coma | nega | lsla | asla | asra | lsra | rola | rora =>
    simp only [exec_coma, exec_nega, exec_lsla, exec_asla, exec_asra, exec_lsra, exec_rola, exec_rora] at h
    exact modifyA_writesOnly h rfl fun _ _ => .of_nzvc rfl rfl rfl rfl
  case incx | decx =>
    simp only [exec_incx, exec_decx] at h
    exact modifyX_writesOnly h rfl fun _ _ => .of_nzv rfl rfl rfl rfl
  case comx | negx | lslx | aslx | asrx | lsrx | rolx | rorx =>
    simp only [exec_comx, exec_negx, exec_lslx, exec_aslx, exec_asrx, exec_lsrx, exec_rolx, exec_rorx] at h
    exact modifyX_writesOnly h rfl fun _ _ => .of_nzvc rfl rfl rfl rfl
  case bclr | bset =>
    simp only [exec_bclr, exec_bset] at h
    exact modifyBit_writesOnly h
  -- branches
  case brclr | brset =>
    simp only [exec_brclr, exec_brset] at h
    exact branchBit_writesOnly h rfl rfl
  case bcc | bcs | bhcc | bhcs | bhi | bhs | blo | bls | bpl | bmi | beq | bne | bge | bgt | ble | blt |
      bih | bil | bmc | bms | bra | cbeqa | cbeqx => exact branch_writesOnly h rfl
  case brn | nop => exact writesOnly_of_next h hrefl
  case dbnza => exact writesOnly_of_next h ((hrefl.setA rfl _).branchIf rfl _ _)
  case dbnzx => exact writesOnly_of_next h ((hrefl.setX rfl _).branchIf rfl _ _)
  case jmp => exact writesOnly_of_next h (hrefl.setPc rfl _)
  -- the stack
  case psha | pshh | pshx => exact push8_writesOnly h rfl
  case pula => exact pull8_set_writesOnly (set := State.setA) h rfl fun _ v hu => hu.setA rfl v
  case pulh => exact pull8_set_writesOnly (set := State.setH) h rfl fun _ v hu => hu.setH rfl v
  case pulx => exact pull8_set_writesOnly (set := State.setX) h rfl fun _ v hu => hu.setX rfl v
  -- one register
  case tpa | txa | nsa => exact writesOnly_of_next h (hrefl.setA rfl _)
  case tax => exact writesOnly_of_next h (hrefl.setX rfl _)
  case txs | ais | rsp => exact writesOnly_of_next h (hrefl.setSp rfl _)
  case tsx | aix => exact writesOnly_of_next h (hrefl.setHx rfl rfl _)
  case clra => exact writesOnly_of_next h ((hrefl.setA rfl _).setCcr (.of_nzv rfl rfl rfl rfl))
  case clrx => exact writesOnly_of_next h ((hrefl.setX rfl _).setCcr (.of_nzv rfl rfl rfl rfl))
  case clrh => exact writesOnly_of_next h ((hrefl.setH rfl _).setCcr (.of_nzv rfl rfl rfl rfl))
  -- flags and modes
  case tsta | tstx => exact writesOnly_of_next h (hrefl.setCcr (.of_nzv rfl rfl rfl rfl))
  case tap => exact writesOnly_of_next h (hrefl.setCcr (.of_all rfl rfl rfl rfl))
  case clc | sec => exact writesOnly_of_next h (hrefl.setCcr (hrefl.flags.setC rfl _))
  case sei => exact writesOnly_of_next h (hrefl.setI rfl _)
  case cli => exact writesOnly_of_next h ((hrefl.setI rfl _).setInhibitNext rfl _)
  case wait => exact writesOnly_of_next h ((hrefl.setI rfl _).setMode rfl _)
  case stop => rw [exec_stop_next h]; exact (hrefl.setI rfl _).setMode rfl _
  -- meanings of their own
  case mul =>
    have hflags := (hrefl.flags.setHc rfl false).setC rfl false
    exact writesOnly_of_next h (((hrefl.setX rfl _).setA rfl _).setCcr hflags)
  case div =>
    obtain ⟨d, q, r, z, c, rfl, -⟩ := exec_div_next h
    exact (((hrefl.setDraws d).setA rfl q).setH rfl r).setCcr ((hrefl.flags.setZ rfl z).setC rfl c)
  case daa =>
    obtain ⟨d, a, f, rfl, -, hhc, hi⟩ := exec_daa_next h
    exact ((hrefl.setDraws d).setA rfl a).setCcr (.of_nzvc rfl rfl hhc hi)
  case ldhx m =>
    rw [exec_ldhx_next h]
    exact ((WritesOnly.src16After _ m s).setHx rfl rfl _).setCcr (.of_nzv rfl rfl rfl rfl)
  case cphx m =>
    rw [exec_cphx_next h]
    exact (WritesOnly.src16After _ m s).setCcr (.of_nzvc rfl rfl rfl rfl)
  case sthx =>
    rw [exec_sthx_next h]
    exact ((hrefl.afterWrite _ _).afterWrite _ _).setCcr (.of_nzv rfl rfl rfl rfl)
  case mov => exact exec_mov_writesOnly h
  case clr => exact exec_clr_writesOnly h
  case tst => rw [exec_tst_next h]; exact (hrefl.afterRead _).setCcr (.of_nzv rfl rfl rfl rfl)
  case cbeq =>
    rw [exec_cbeq_next h]
    exact (cbeqIncrement_writesOnly (hrefl.afterRead _)).branchIf rfl _ _
  case dbnz =>
    rw [exec_dbnz_next h]
    exact ((hrefl.afterRead _).afterWrite _ _).branchIf rfl _ _
  case jsr =>
    rw [exec_jsr_next h]
    exact (((Pushed.zero _ s).succ rfl _).succ rfl _).writesOnly.setPc rfl _
  case bsr =>
    rw [exec_bsr_next h]
    exact (((Pushed.zero _ s).succ rfl _).succ rfl _).writesOnly.setPc rfl _
  case rts => rw [exec_rts_next h]; exact ((hrefl.pulled rfl).pulled rfl).setPc rfl _
  case swi => exact exec_swi_writesOnly h
  case rti =>
    rw [exec_rti_next h]
    have hpulled := ((((hrefl.pulled rfl).pulled rfl).pulled rfl).pulled rfl).pulled rfl
    exact (((hpulled.setCcr (.of_all rfl rfl rfl rfl)).setA rfl _).setX rfl _).setPc rfl _

/-- Settles O42: the registers' part of what an instruction writes. -/
theorem registersChangeOnlyByTheirWriters : Obligations.RegistersChangeOnlyByTheirWriters := by
  intro i s t h
  have hw := exec_writesOnly h
  exact ⟨hw.a, hw.x, hw.h, hw.sp, hw.pc⟩

/-- Settles O43: the flags' part of what an instruction writes. -/
theorem flagsChangeOnlyByTheirWriters : Obligations.FlagsChangeOnlyByTheirWriters := by
  intro i s t h
  obtain ⟨hv, hhc, hi, hn, hz, hc⟩ := (exec_writesOnly h).flags
  exact ⟨hv, hhc, hi, hn, hz, hc⟩

/-- Settles O45: the hidden state's part of what an instruction writes. -/
theorem hiddenStateChangesOnlyAsNamed : Obligations.HiddenStateChangesOnlyAsNamed := by
  intro i s t h
  have hw := exec_writesOnly h
  exact ⟨hw.pending, hw.irqPin, hw.resetRequested, hw.platform, hw.inputs, hw.cycles, hw.stale, hw.inhibitNext,
    hw.mode⟩

end Sys2Proof.Machine
end

section
/-! PROOFS for 20_memory.md: what byte and word accesses are (R52 to R61), which bytes an instruction can change
(R51, R56), then what becomes of a byte that an instruction overwrote at its own `PCnext` (R66, R348, U8). -/

namespace Sys2Proof.Machine

/-! ## Byte accesses by what stands behind the address -/

theorem readByte_of_answers {s : State} {a : Addr} (h : s.answers a = true) :
    readByte a s = .ok (s.byteAt a, s.afterRead a) :=
  readByte_ok.mpr ⟨h, rfl⟩

theorem writeByte_of_answers {s : State} {a : Addr} (h : s.answers a = true) (v : Byte) :
    writeByte a v s = .ok (s.afterWrite a v) :=
  writeByte_ok.mpr ⟨h, rfl⟩

theorem readByte_memory {s : State} {a : Addr} (h : s.isMemory a) :
    readByte a s = .ok (s.mem.read a.toNat, s) := by
  obtain ⟨hanswers, hbyte, hafter⟩ := State.isMemory_read h
  rw [readByte_of_answers hanswers, hbyte, hafter]

/-- A write to RAM changes the one byte and settles it. -/
theorem writeByte_ram {s : State} {a : Addr} (h : s.isRam a) (v : Byte) :
    ∃ t, writeByte a v s = .ok t ∧ t = { s with mem := t.mem, stale := s.staleOutside [a] } ∧
      ∀ b, t.mem.read b = if b = a.toNat then v else s.mem.read b := by
  obtain ⟨hanswers, hwrite⟩ := State.isRam_write h v
  refine ⟨_, writeByte_of_answers hanswers v, ?_, fun b => by simp only [State.afterWrite_read, and_iff_left h]⟩
  rw [← State.afterWrite_stale s a v, hwrite]
  rfl

theorem writeByte_rom {s : State} {a : Addr} (h : s.kindAt a = .rom) (v : Byte) : writeByte a v s = .ok s := by
  rw [writeByte_of_answers (State.isMemory_read (.inr h)).1, State.afterWrite, h]

/-- Where an access answers and no cell stands, a read draws its value and a write is not seen (U9, U16). -/
theorem access_without_cell {s : State} {a : Addr} (hanswers : s.answers a = true) (hcell : ¬ s.isMemory a)
    (v : Byte) :
    readByte a s = .ok (Config.freeByte s.draws, { s with draws := s.draws + 1 }) ∧ writeByte a v s = .ok s := by
  rw [readByte_of_answers hanswers, writeByte_of_answers hanswers, State.byteAt, State.afterRead, State.afterWrite]
  cases hkind : s.kindAt a with
  | ram => exact absurd (.inl hkind) hcell
  | rom => exact absurd (.inr hkind) hcell
  | io | unimplemented => exact ⟨rfl, rfl⟩

/-- Where an access does not answer, it stops the machine in the state it finds (R61, R301). -/
theorem access_fault {s : State} {a : Addr} (h : s.answers a = false) (v : Byte) :
    readByte a s = .error (.illegalAddress a s) ∧ writeByte a v s = .error (.illegalAddress a s) := by
  simp [readByte, writeByte, h]

/-- Settles O7: one lemma for each kind of address. -/
theorem accessesFollowTheMemoryMap : Obligations.AccessesFollowTheMemoryMap := by
  refine fun s a v => ⟨fun hram => ?ram, fun hrom => ?rom, fun d hio => ?io, fun hhole hfault => ?fault,
    fun hhole hdraw => ?draw⟩
  case ram => exact ⟨readByte_memory (.inl hram), writeByte_ram hram v⟩
  case rom => exact ⟨readByte_memory (.inr hrom), writeByte_rom hrom v⟩
  case io => exact access_without_cell (by simp [State.answers, hio]) (by simp [hio]) v
  case fault => exact access_fault (by simp [State.answers, hhole, hfault]) v
  case draw => exact access_without_cell (by simp [State.answers, hhole, hdraw]) (by simp [hhole]) v

/-- Settles O8: each access sequence has one outcome when its bytes answer. -/
theorem accessSequencesAreTheirByteAccesses : Obligations.AccessSequencesAreTheirByteAccesses := by
  refine fun s a w v => ⟨rfl, rfl, fun hhi hlo => ⟨?readWord, ?writeWord⟩, fun hsp => ?push, fun hsp => ?pull⟩
  case readWord => exact readWord_ok.mpr ⟨hhi, hlo, rfl⟩
  case writeWord => exact writeWord_ok.mpr ⟨hhi, hlo, rfl⟩
  case push => exact push8_ok.mpr ⟨hsp, rfl⟩
  case pull => exact pull8_ok.mpr ⟨hsp, rfl⟩

/-- Settles O44: the memory's part of what an instruction writes. -/
theorem memoryChangesOnlyAtStoreAddresses : Obligations.MemoryChangesOnlyAtStoreAddresses :=
  fun _ _ _ b h hb => (exec_writesOnly h).mem b hb

/-! ## The length of the instruction at `PCnext` -/

@[simp] theorem length_bytesAt (m : Memory) (a : Addr) (n : Nat) : (bytesAt m a n).length = n := by
  induction n generalizing a with
  | zero => rfl
  | succ n ih => simp [bytesAt, ih]

/-- A length of one byte is told by the first byte alone. -/
theorem lengthFrom_eq_one {b0 b1 : Byte} (h : lengthFrom b0 b1 = 1) (b : Byte) : lengthFrom b0 b = 1 := by
  unfold lengthFrom at h ⊢
  by_cases hb0 : b0 = prefixByte
  · rw [if_pos hb0] at h
    omega
  · rwa [if_neg hb0] at h ⊢

/-- What decodes in memory is as long as its first two bytes say, be the second one part of it or not. -/
theorem decode_bytesAt_length {m : Memory} {a : Addr} {n : Nat} {j : Instr}
    (h : decode (bytesAt m a n) = .ok (j, [])) :
    n = lengthFrom (m.read a.toNat) (m.read (a + 1).toNat) := by
  have hlength := decode_length h
  rw [length_bytesAt] at hlength
  match n with
  | 0 => cases h
  | 1 => exact (lengthFrom_eq_one hlength.symm _).symm
  | _ + 2 => exact hlength

/-- The byte of memory before and after the instruction is a reading of its address. -/
theorem read_mem_readings {s t : State} {a : Addr} {m : Memory} (ha : s.isMemory a)
    (hm : m = s.mem ∨ m = t.mem) (unknown : List Byte) : m.read a.toNat ∈ readings s t unknown a := by
  rcases ha with ha | ha <;> rcases hm with rfl | rfl <;> simp [readings, ha]

theorem exists_mem_readings (s t : State) (b : Byte) (a : Addr) : ∃ b1, b1 ∈ readings s t [b] a := by
  unfold readings
  split <;> exact ⟨_, List.mem_cons_self⟩

/-- An instruction in memory at `PCnext`, before or after what ran, lies within the bytes that `overwritten`
looks at. -/
theorem length_le_nextLength {s t : State} {m : Memory} {n : Nat} {j : Instr} (hm : m = s.mem ∨ m = t.mem)
    (hmemory : ∀ l < n, s.isMemory (s.pc + BitVec.ofNat 16 l)) (h : decode (bytesAt m s.pc n) = .ok (j, [])) :
    n ≤ nextLength s t := by
  have hlength := decode_bytesAt_length h
  match n with
  | 0 => exact Nat.zero_le _
  | 1 =>
    obtain ⟨b1, hb1⟩ := exists_mem_readings s t 0xD6 (s.pc + 1)
    have hpc : s.isMemory s.pc := by simpa using hmemory 0 (by omega)
    rw [← lengthFrom_eq_one hlength.symm b1]
    exact lengthFrom_le_nextLength (read_mem_readings hpc hm _) hb1
  | n + 2 =>
    have hpc : s.isMemory s.pc := by simpa using hmemory 0 (by omega)
    rw [hlength]
    exact lengthFrom_le_nextLength (read_mem_readings hpc hm _) (read_mem_readings (hmemory 1 (by omega)) hm _)

/-! ## The record of an overwritten byte -/

@[simp] theorem retire_stale (i : Instr) (s t : State) : (retire i s t).stale = overwritten s t ++ t.stale := rfl

theorem State.staleAt_eq_none {s : State} {a : Addr} : s.staleAt a = none ↔ ∀ e ∈ s.stale, e.addr ≠ a := by
  simp [State.staleAt]

/-- An entry of `overwritten` holds the byte before the instruction. -/
theorem old_of_mem_overwritten {s t : State} {e : StaleByte} (h : e ∈ overwritten s t) :
    e.old = s.mem.read e.addr.toNat := by
  obtain ⟨k, -, -, rfl⟩ := mem_overwritten.mp h
  rfl

/-- A byte that the instruction overwrote is open with its old value, whatever was recorded of it before. -/
theorem retire_staleAt_of_mem_overwritten (i : Instr) {s t : State} {e : StaleByte} (h : e ∈ overwritten s t) :
    (retire i s t).staleAt e.addr = some (s.mem.read e.addr.toNat) := by
  obtain ⟨f, hf⟩ : ∃ f, (overwritten s t).find? (fun f => decide (f.addr = e.addr)) = some f :=
    Option.isSome_iff_exists.mp (List.find?_isSome.mpr ⟨e, h, by simp⟩)
  have haddr : f.addr = e.addr := by simpa using List.find?_some hf
  have hold := old_of_mem_overwritten (List.mem_of_find?_eq_some hf)
  simp [State.staleAt, List.find?_append, hf, hold, haddr]

/-- A byte of the instruction at `PCnext` that the instruction before it changed is open (R66, U8). -/
theorem retire_staleAt_of_changed (i : Instr) {s t : State} {k : Nat} (hk : k < nextLength s t)
    (hchanged : s.mem.read (s.pc + BitVec.ofNat 16 k).toNat ≠ t.mem.read (s.pc + BitVec.ofNat 16 k).toNat) :
    (retire i s t).staleAt (s.pc + BitVec.ofNat 16 k) = some (s.mem.read (s.pc + BitVec.ofNat 16 k).toNat) :=
  retire_staleAt_of_mem_overwritten i (mem_overwritten.mpr ⟨k, hk, hchanged, rfl⟩)

/-- A recorded byte has changed and lies in the instruction at `PCnext`. -/
theorem changed_of_mem_overwritten {s t : State} {e : StaleByte} (h : e ∈ overwritten s t) :
    t.mem.read e.addr.toNat ≠ s.mem.read e.addr.toNat ∧ (e.addr - s.pc).toNat < nextLength s t := by
  obtain ⟨k, hk, hchanged, rfl⟩ := mem_overwritten.mp h
  have hle := nextLength_le s t
  have hoffset : (s.pc + BitVec.ofNat 16 k - s.pc).toNat = k := by
    rw [add_sub_cancel_left, BitVec.toNat_ofNat]
    omega
  exact ⟨hchanged.symm, hoffset.symm ▸ hk⟩

/-- A store to RAM that changes no byte of the instruction at `PCnext` settles its own byte (R348). -/
theorem retire_staleAt_of_stored {i : Instr} {s t : State} {a : Addr} (h : exec i s = .next t)
    (ha : a ∈ storeAddrs i s) (hram : s.isRam a)
    (hnext : t.mem.read a.toNat = s.mem.read a.toNat ∨ nextLength s t ≤ (a - s.pc).toNat) :
    (retire i s t).staleAt a = none := by
  refine State.staleAt_eq_none.mpr fun e he haddr => ?_
  subst haddr
  rw [retire_stale, List.mem_append, (exec_writesOnly h).stale, State.mem_staleOutside] at he
  rcases he with hnew | ⟨-, hkept⟩
  · obtain ⟨hchanged, hinside⟩ := changed_of_mem_overwritten hnew
    rcases hnext with hsame | hbeyond
    · exact hchanged hsame
    · omega
  · exact hkept ⟨ha, hram⟩

/-- An open byte is fetched as the old or the new one by a free choice (U8). -/
theorem fetchByte_stale {s : State} {old : Byte} (hmemory : s.isMemory s.pc) (hstale : s.staleAt s.pc = some old) :
    fetchByte s = .ok (if Config.freeBit s.draws then old else s.mem.read s.pc.toNat,
      { s with pc := s.pc + 1, draws := s.draws + 1 }) := by
  rw [fetchByte, readByte_memory hmemory]
  simp only [bind, Except.bind, hstale]
  rfl

/-! ## What settles an open byte -/

theorem jumpVector_stale {vector : Addr} {s t : State} (h : jumpVector vector s = .ok t) : t.stale = s.stale := by
  obtain ⟨-, -, rfl⟩ := jumpVector_ok.mp h
  simp

theorem takeReset_stale {s t : State} (h : takeReset s = .ok t) : t.stale = s.stale := by
  rw [jumpVector_stale h]
  rfl

/-- Taking an exception settles the bytes under its frame: the five pushes are those of SWI. -/
theorem trapEntry_stale {vector ret : Addr} {s t : State} (h : trapEntry vector ret s = .ok t) :
    t.stale = s.staleOutside (pushAddrs s.sp 5) := by
  obtain ⟨w, rfl⟩ := trapEntry_next h
  have hframe := (((((Pushed.zero .swi s).succ rfl (loByte ret)).succ rfl (hiByte ret)).succ rfl s.x).succ
    rfl s.a).succ rfl s.ccr.toByte
  simpa using hframe.writesOnly.stale

theorem takeInterrupt_stale {p : Config.IntSource} {s t : State} (h : takeInterrupt p s = .ok t) :
    t.stale = s.staleOutside (pushAddrs s.sp 5) := by
  rw [trapEntry_stale h, State.staleOutside_congr (s := s) (by simp) (by simp)]
  simp

/-- A fetch settles what was written at its start as `PCnext`, and the bytes it executes. -/
theorem mem_stale_of_fetchInstr {s u : State} {i : Instr} (h : fetchInstr s = .ok (i, u)) (e : StaleByte) :
    e ∈ u.stale ↔ e ∈ s.stale ∧ e.next ≠ s.pc ∧ (u.pc - s.pc).toNat ≤ (e.addr - s.pc).toNat := by
  obtain ⟨_, ⟨n, pc, -, rfl⟩, rfl⟩ := fetchInstr_fetched h
  simp

/-- An instruction keeps every open byte but those in RAM that it stores to. -/
theorem mem_stale_retire {i : Instr} {s t : State} {e : StaleByte} (h : exec i s = .next t) (he : e ∈ s.stale)
    (hstore : ¬ (e.addr ∈ storeAddrs i s ∧ s.isRam e.addr)) : e ∈ (retire i s t).stale := by
  rw [retire_stale, (exec_writesOnly h).stale]
  exact List.mem_append_right _ ((State.mem_staleOutside _ _ _).mpr ⟨he, hstore⟩)

/-- R66, R348, U8: an open byte outlives a step unless an interrupt's frame is pushed over it, or the step's
instruction starts at its `PCnext`, executes it or stores to it. -/
theorem stale_of_step {s t : State} {e : StaleByte} (he : e ∈ s.stale) (h : step s = .next t) :
    e ∈ t.stale ∨
    (∃ p, s.sampled.recognised = some p ∧ e.addr ∈ pushAddrs s.sp 5 ∧ s.isRam e.addr) ∨
    ∃ i u, fetchInstr (s.sampled.setInhibitNext false) = .ok (i, u) ∧
      (e.next = s.pc ∨ (e.addr - s.pc).toNat < (u.pc - s.pc).toNat ∨
        (e.addr ∈ storeAddrs i u ∧ s.isRam e.addr)) := by
  rcases step_next h with ⟨-, hreset⟩ | ⟨-, p, hp, hint⟩ | ⟨-, -, -, i, u, v, hfetch, hexec, rfl⟩ | ⟨-, -, -, rfl⟩
  case inl => exact .inl (by simpa [takeReset_stale hreset] using he)
  case inr.inl =>
    by_cases hframe : e.addr ∈ pushAddrs s.sp 5 ∧ s.isRam e.addr
    · exact .inr (.inl ⟨p, hp, hframe⟩)
    · left
      rw [takeInterrupt_stale hint, State.staleOutside_congr (s := s) (by simp) (by simp)]
      simpa using ⟨he, fun ha hram => hframe ⟨ha, hram⟩⟩
  case inr.inr.inl =>
    have hram : u.isRam e.addr ↔ s.isRam e.addr := by
      have hplatform : u.platform = s.platform := by simpa using (fetchInstr_onward hfetch).platform
      rw [State.isRam, State.isRam, State.kindAt_congr hplatform]
    by_cases hsettled : e.next = s.pc ∨ (e.addr - s.pc).toNat < (u.pc - s.pc).toNat ∨
        (e.addr ∈ storeAddrs i u ∧ s.isRam e.addr)
    · exact .inr (.inr ⟨i, u, hfetch, hsettled⟩)
    · obtain ⟨hnext, hexecuted, hstored⟩ : e.next ≠ s.pc ∧ ¬ (e.addr - s.pc).toNat < (u.pc - s.pc).toNat ∧
          ¬ (e.addr ∈ storeAddrs i u ∧ s.isRam e.addr) := by simpa only [not_or] using hsettled
      have hu : e ∈ u.stale := by
        refine (mem_stale_of_fetchInstr hfetch e).mpr ?_
        simpa using ⟨he, hnext, Nat.le_of_not_lt hexecuted⟩
      exact .inl (mem_stale_retire hexec hu (by rwa [hram]))
  case inr.inr.inr => exact .inl (by simpa using he)

/-- Settles O49: what is recorded, how it is fetched, what outlives a step, and what a store settles. -/
theorem overwrittenNextByteIsOldOrNew : Obligations.OverwrittenNextByteIsOldOrNew := by
  refine ⟨fun i j s t n k hmemory hdecode hk hchanged => ?_, fun _ _ => fetchByte_stale, fun _ _ _ => stale_of_step,
    fun _ _ _ _ => retire_staleAt_of_stored⟩
  have hn : n ≤ nextLength s t := by
    rcases hdecode with h | h
    · exact length_le_nextLength (.inl rfl) hmemory h
    · exact length_le_nextLength (.inr rfl) hmemory h
  exact retire_staleAt_of_changed i (Nat.lt_of_lt_of_le hk hn) hchanged

end Sys2Proof.Machine
end

section
/-! PROOFS for 30_encoding.md: what decodes, by the two opcode maps (R81, R82), each group of the maps against the
encoder in both directions (R83, R95), the illegal encodings (R100) and the effective addresses (R87 to R93). -/

namespace Sys2Proof

open Machine (word hiByte loByte)

/-! ## Opcode bytes by their fields (R83, R96) -/

@[simp] theorem opHigh_append (hi lo : BitVec 4) : opHigh (hi ++ lo) = hi.toNat := by
  rw [opHigh, BitVec.extractLsb'_append_eq_left]

@[simp] theorem opLow_append (hi lo : BitVec 4) : opLow (hi ++ lo) = lo.toNat := by
  rw [opLow, BitVec.extractLsb'_append_eq_right]

theorem exists_eq_append (b : Byte) : ∃ hi lo : BitVec 4, b = hi ++ lo :=
  ⟨b.extractLsb' 4 4, b.extractLsb' 0 4, by decide +revert⟩

theorem nibble_eq_ofNat {lo : BitVec 4} {k : Nat} (h : lo.toNat = k) : lo = BitVec.ofNat 4 k := by
  rw [← h, BitVec.ofNat_toNat, BitVec.setWidth_eq]

section BitGroup

variable (column : BitVec 4) (n : BitNum) (clear : BitVec 1)

@[simp] theorem opHigh_encodeBitOp : opHigh (encodeBitOp column n clear) = column.toNat := by
  decide +revert

@[simp] theorem opBit_encodeBitOp : opBit (encodeBitOp column n clear) = n := by
  decide +revert

@[simp] theorem opClear_encodeBitOp : opClear (encodeBitOp column n clear) = clear.getLsbD 0 := by
  decide +revert

end BitGroup

theorem encodeBitOp_opBit (hi lo : BitVec 4) :
    encodeBitOp hi (opBit (hi ++ lo)) (BitVec.ofBool (opClear (hi ++ lo))) = hi ++ lo := by
  decide +revert

/-! ## The decoder by its two opcode maps (R81, R82) -/

theorem decode_of_page1 {b : Byte} {sh : Shape} (h : page1 b = some sh) (rest : List Byte) :
    decode (b :: rest) = sh.fill rest := by
  have hb : b ≠ prefixByte := by
    rintro rfl
    cases h
  simp only [decode, if_neg hb, h]

theorem decode_of_page2 {b : Byte} {sh : Shape} (h : page2 b = some sh) (rest : List Byte) :
    decode (prefixByte :: b :: rest) = sh.fill rest := by
  simp only [decode, if_pos, h]

/-- What decodes is an opcode of one of the two maps with its operand bytes. -/
theorem decode_eq_ok {bytes rest : List Byte} {i : Instr} (h : decode bytes = .ok (i, rest)) :
    (∃ b l sh, bytes = b :: l ∧ page1 b = some sh ∧ sh.fill l = .ok (i, rest)) ∨
    ∃ b l sh, bytes = prefixByte :: b :: l ∧ page2 b = some sh ∧ sh.fill l = .ok (i, rest) := by
  rcases bytes with _ | ⟨b, l⟩
  · cases h
  by_cases hb : b = prefixByte
  · subst hb
    rcases l with _ | ⟨c, l⟩
    · cases h
    cases hc : page2 c with
    | none => simp [decode, hc] at h
    | some sh => exact .inr ⟨c, l, sh, rfl, hc, decode_of_page2 hc l ▸ h⟩
  · cases hpage : page1 b with
    | none => simp [decode, hb, hpage] at h
    | some sh => exact .inl ⟨b, l, sh, rfl, hpage, decode_of_page1 hpage l ▸ h⟩

theorem fill_error {sh : Shape} {l : List Byte} {e : DecodeError} (h : sh.fill l = .error e) : e = .truncated := by
  unfold Shape.fill at h
  split at h
  case h_4 => exact (Except.error.inj h).symm
  all_goals cases h

theorem page2_of_decode_illegalPage2 {b c : Byte} {rest : List Byte}
    (h : decode (prefixByte :: b :: rest) = .error (.illegalPage2 c)) : page2 b = none := by
  cases hpage : page2 b with
  | none => rfl
  | some sh =>
    rw [decode_of_page2 hpage] at h
    cases fill_error h

theorem decode_illegalPage2_iff {b : Byte} {rest : List Byte} :
    decode (prefixByte :: b :: rest) = .error (.illegalPage2 b) ↔ page2 b = none :=
  ⟨page2_of_decode_illegalPage2, fun hpage => by simp [decode, hpage]⟩

/-- Behind `prefixByte`, no error names an opcode of the first map. -/
theorem decode_prefixByte_ne_illegalOpcode (rest : List Byte) (c : Byte) :
    decode (prefixByte :: rest) ≠ .error (.illegalOpcode c) := by
  rcases rest with _ | ⟨b, l⟩
  · simp [decode]
  · cases hpage : page2 b with
    | none => simp [decode, hpage]
    | some sh =>
      rw [decode_of_page2 hpage]
      exact fun hfill => nomatch fill_error hfill

theorem decode_illegalOpcode_iff {b : Byte} {rest : List Byte} :
    decode (b :: rest) = .error (.illegalOpcode b) ↔ b ≠ prefixByte ∧ page1 b = none := by
  by_cases hb : b = prefixByte
  · subst hb
    exact iff_of_false (decode_prefixByte_ne_illegalOpcode rest _) (fun h => h.1 rfl)
  · cases hpage : page1 b with
    | none => simp [decode, hb, hpage]
    | some sh =>
      rw [decode_of_page1 hpage]
      exact iff_of_false (fun hfill => nomatch fill_error hfill) (fun h => nomatch h.2)

/-! ## What the maps select for a member of a group (R83) -/

section Groups

variable {lo : Nat}

theorem memOp_of_accOp {f : Src → Instr} (h : accOp lo = some f) : memOp lo = some fun m => f (.mem m) := by
  unfold memOp
  split
  case h_3 => simp [h]
  all_goals cases h

theorem columnA_of_accOp {f : Src → Instr} (h : accOp lo = some f) :
    columnA lo = some (.one fun ii => f (.imm ii)) := by
  unfold columnA
  split
  case h_4 => simp [h]
  all_goals cases h

theorem columnMem_of_jumpOp {f : JumpMode → Instr} (h : jumpOp lo = some f)
    (mem : (MemMode → Instr) → Shape) (jump : (JumpMode → Instr) → Shape) :
    columnMem mem jump lo = some (jump f) := by
  rw [columnMem, h]

theorem columnMem_of_memOp {f : MemMode → Instr} (h : memOp lo = some f)
    (mem : (MemMode → Instr) → Shape) (jump : (JumpMode → Instr) → Shape) :
    columnMem mem jump lo = some (mem f) := by
  have hjump : jumpOp lo = none := by
    unfold jumpOp
    split
    case h_3 => rfl
    all_goals cases h
  simp [columnMem, hjump, h]

theorem column3_of_rmwOp {f : RmwMode → Instr} (h : rmwOp lo = some f) :
    column3 lo = some (.one fun dd => f (.dir dd)) := by
  unfold column3
  split
  case h_4 => simp [h]
  all_goals cases h

theorem column6_of_rmwOp {f : RmwMode → Instr} (h : rmwOp lo = some f) :
    column6 lo = some (.one fun ff => f (.ix1 ff)) := by
  unfold column6
  split
  case h_6 => simp [h]
  all_goals cases h

theorem column7_of_rmwOp {f : RmwMode → Instr} (h : rmwOp lo = some f) :
    column7 lo = some (.zero (f .ix)) := by
  unfold column7
  split
  case h_6 => simp [h]
  all_goals cases h

end Groups

theorem page2_of_rmwOp {lo : BitVec 4} {f : RmwMode → Instr} (h : rmwOp lo.toNat = some f) :
    page2 (0x6#4 ++ lo) = some (.one fun ff => f (.sp1 ff)) := by
  have hcolumn : opHigh (0x6#4 ++ lo) = 0x6 := opHigh_append _ _
  simp only [page2, hcolumn, opLow_append]
  split
  case h_3 => simp [h]
  all_goals
    next hlo =>
      rw [hlo] at h
      cases h

/-! ## Decoding what the encoder writes -/

section Groups

variable {lo : BitVec 4}

theorem decode_encodeMem {f : MemMode → Instr} (h : memOp lo.toNat = some f) (m : MemMode) (rest : List Byte) :
    decode (encodeMem lo m ++ rest) = .ok (f m, rest) := by
  cases m with
  | dir | ext | ix2 | ix1 | ix =>
    simp [encodeMem, decode_of_page1, page1, columnMem_of_memOp h, Shape.fill]
  | sp1 | sp2 => simp [encodeMem, decode_of_page2, page2, h, Shape.fill]

theorem decode_encodeSrc {f : Src → Instr} (h : accOp lo.toNat = some f) (m : Src) (rest : List Byte) :
    decode (encodeSrc lo m ++ rest) = .ok (f m, rest) := by
  cases m with
  | imm ii => simp [encodeSrc, decode_of_page1, page1, columnA_of_accOp h, Shape.fill]
  | mem m => exact decode_encodeMem (memOp_of_accOp h) m rest

theorem decode_encodeJump {f : JumpMode → Instr} (h : jumpOp lo.toNat = some f) (m : JumpMode) (rest : List Byte) :
    decode (encodeJump lo m ++ rest) = .ok (f m, rest) := by
  cases m <;> simp [encodeJump, decode_of_page1, page1, columnMem_of_jumpOp h, Shape.fill]

theorem decode_encodeRmw {f : RmwMode → Instr} (h : rmwOp lo.toNat = some f) (m : RmwMode) (rest : List Byte) :
    decode (encodeRmw lo m ++ rest) = .ok (f m, rest) := by
  cases m with
  | dir dd => simp [encodeRmw, decode_of_page1, page1, column3_of_rmwOp h, Shape.fill]
  | ix1 ff => simp [encodeRmw, decode_of_page1, page1, column6_of_rmwOp h, Shape.fill]
  | ix => simp [encodeRmw, decode_of_page1, page1, column7_of_rmwOp h, Shape.fill]
  | sp1 ff => simp [encodeRmw, decode_of_page2, page2_of_rmwOp h, Shape.fill]

end Groups

/-- Each group by the nibble that selects its operation; every other opcode by evaluation of the two maps. -/
theorem decode_encode {i : Instr} (hi : i.WellFormed) (rest : List Byte) :
    decode (encode i ++ rest) = .ok (i, rest) := by
  cases i
  case lda | ldx | add | adc | sub | sbc | cmp | cpx | and | ora | eor | bit => exact decode_encodeSrc rfl _ rest
  case sta | stx => exact decode_encodeMem rfl _ rest
  case jmp | jsr => exact decode_encodeJump rfl _ rest
  case inc | dec | com | neg | clr | tst | lsl | asr | lsr | rol | ror => exact decode_encodeRmw rfl _ rest
  case ldhx m | cphx m =>
    cases m with
    | imm v =>
      conv_rhs => rw [← Machine.word_hiByte_loByte v]
      rfl
    | dir dd => rfl
  case mov m | cbeq m _ | dbnz m _ => cases m <;> rfl
  case bclr | bset | brclr | brset => simp [encode, decode_of_page1, page1, Shape.fill]
  case asl | asla | aslx | bhs | blo => cases hi
  all_goals rfl

/-- Settles O1: the operand bytes put together again are the operand. -/
theorem decodeUndoesEncode : Obligations.DecodeUndoesEncode :=
  fun _ rest hi => decode_encode hi rest

/-! ## What the maps select has the bytes that select it -/

/-- The instruction has the name of the opcode map, and these are its bytes. -/
def Instr.CodedAs (i : Instr) (bytes : List Byte) : Prop := encode i = bytes ∧ i.WellFormed

/-- Whatever operand bytes follow the opcode bytes, the shape builds the instruction of all these bytes. -/
def Shape.CodedAs (opcode : List Byte) : Shape → Prop
  | .zero i => i.CodedAs opcode
  | .one build => ∀ a, (build a).CodedAs (opcode ++ [a])
  | .two build => ∀ a b, (build a b).CodedAs (opcode ++ [a, b])

@[simp] theorem Instr.codedAs_iff {i : Instr} {bytes : List Byte} :
    i.CodedAs bytes ↔ encode i = bytes ∧ i.canonical = i := Iff.rfl

section Shapes

variable {opcode : List Byte}

@[simp] theorem Shape.codedAs_zero {i : Instr} : (Shape.zero i).CodedAs opcode ↔ i.CodedAs opcode := Iff.rfl

@[simp] theorem Shape.codedAs_one {build : Byte → Instr} :
    (Shape.one build).CodedAs opcode ↔ ∀ a, (build a).CodedAs (opcode ++ [a]) := Iff.rfl

@[simp] theorem Shape.codedAs_two {build : Byte → Byte → Instr} :
    (Shape.two build).CodedAs opcode ↔ ∀ a b, (build a b).CodedAs (opcode ++ [a, b]) := Iff.rfl

end Shapes

theorem Shape.CodedAs.fill {opcode l rest : List Byte} {sh : Shape} {i : Instr} (hsh : sh.CodedAs opcode)
    (h : sh.fill l = .ok (i, rest)) : opcode ++ l = encode i ++ rest ∧ i.WellFormed := by
  unfold Shape.fill at h
  split at h
  case h_1 =>
    cases h
    obtain ⟨hbytes, hname⟩ := hsh
    exact ⟨by rw [hbytes], hname⟩
  case h_2 a _ =>
    cases h
    obtain ⟨hbytes, hname⟩ := hsh a
    exact ⟨by simp [hbytes], hname⟩
  case h_3 a b _ =>
    cases h
    obtain ⟨hbytes, hname⟩ := hsh a b
    exact ⟨by simp [hbytes], hname⟩
  case h_4 => cases h

section Groups

variable {lo : BitVec 4}

theorem codedAs_of_accOp {f : Src → Instr} (h : accOp lo.toNat = some f) (m : Src) :
    (f m).CodedAs (encodeSrc lo m) := by
  unfold accOp at h
  split at h
  case h_13 => cases h
  all_goals
    next hlo =>
      cases h
      rw [nibble_eq_ofNat hlo]
      exact ⟨rfl, rfl⟩

theorem codedAs_of_memOp {f : MemMode → Instr} (h : memOp lo.toNat = some f) (m : MemMode) :
    (f m).CodedAs (encodeMem lo m) := by
  unfold memOp at h
  split at h
  case h_3 =>
    obtain ⟨g, hg, rfl⟩ := Option.map_eq_some_iff.mp h
    exact codedAs_of_accOp hg (.mem m)
  all_goals
    next hlo =>
      cases h
      rw [nibble_eq_ofNat hlo]
      exact ⟨rfl, rfl⟩

theorem codedAs_of_jumpOp {f : JumpMode → Instr} (h : jumpOp lo.toNat = some f) (m : JumpMode) :
    (f m).CodedAs (encodeJump lo m) := by
  unfold jumpOp at h
  split at h
  case h_3 => cases h
  all_goals
    next hlo =>
      cases h
      rw [nibble_eq_ofNat hlo]
      exact ⟨rfl, rfl⟩

theorem codedAs_of_rmwOp {f : RmwMode → Instr} (h : rmwOp lo.toNat = some f) (m : RmwMode) :
    (f m).CodedAs (encodeRmw lo m) := by
  unfold rmwOp at h
  split at h
  case h_12 => cases h
  all_goals
    next hlo =>
      cases h
      rw [nibble_eq_ofNat hlo]
      exact ⟨rfl, rfl⟩

end Groups

/-! ## The columns of the page-1 map -/

section Columns

variable {lo : BitVec 4} {sh : Shape}

theorem column0_codedAs (lo : BitVec 4) :
    (Shape.two fun dd rr => if opClear (0x0#4 ++ lo) then .brclr (opBit (0x0#4 ++ lo)) dd rr
      else .brset (opBit (0x0#4 ++ lo)) dd rr).CodedAs [0x0#4 ++ lo] := by
  intro dd rr
  have hbyte := encodeBitOp_opBit 0x0#4 lo
  cases hclear : opClear (0x0#4 ++ lo) with
  | false | true =>
    rw [hclear] at hbyte
    exact ⟨congrArg (· :: [dd, rr]) hbyte, rfl⟩

theorem column1_codedAs (lo : BitVec 4) :
    (Shape.one fun dd => if opClear (0x1#4 ++ lo) then .bclr (opBit (0x1#4 ++ lo)) dd
      else .bset (opBit (0x1#4 ++ lo)) dd).CodedAs [0x1#4 ++ lo] := by
  intro dd
  have hbyte := encodeBitOp_opBit 0x1#4 lo
  cases hclear : opClear (0x1#4 ++ lo) with
  | false | true =>
    rw [hclear] at hbyte
    exact ⟨congrArg (· :: [dd]) hbyte, rfl⟩

theorem column2_codedAs (lo : BitVec 4) : (Shape.one (branchOp lo.toNat)).CodedAs [0x2#4 ++ lo] := by
  obtain ⟨k, hk⟩ : ∃ k, lo.toNat = k := ⟨_, rfl⟩
  have hlt := lo.isLt
  obtain rfl := nibble_eq_ofNat hk
  rw [hk] at hlt ⊢
  intro rr
  interval_cases k <;> exact ⟨rfl, rfl⟩

theorem column3_codedAs (h : column3 lo.toNat = some sh) : sh.CodedAs [0x3#4 ++ lo] := by
  unfold column3 at h
  split at h
  case h_4 =>
    obtain ⟨f, hf, rfl⟩ := Option.map_eq_some_iff.mp h
    exact fun dd => codedAs_of_rmwOp hf (.dir dd)
  all_goals
    next hlo =>
      cases h
      simp [nibble_eq_ofNat hlo, encode, encodeRmw, Instr.canonical]

theorem column4_codedAs (h : column4 lo.toNat = some sh) : sh.CodedAs [0x4#4 ++ lo] := by
  unfold column4 at h
  split at h
  case h_17 => cases h
  all_goals
    next hlo =>
      cases h
      simp [nibble_eq_ofNat hlo, encode, Instr.canonical]

theorem column5_codedAs (h : column5 lo.toNat = some sh) : sh.CodedAs [0x5#4 ++ lo] := by
  unfold column5 at h
  split at h
  case h_17 => cases h
  all_goals
    next hlo =>
      cases h
      simp [nibble_eq_ofNat hlo, encode, Instr.canonical]

theorem column6_codedAs (h : column6 lo.toNat = some sh) : sh.CodedAs [0x6#4 ++ lo] := by
  unfold column6 at h
  split at h
  case h_6 =>
    obtain ⟨f, hf, rfl⟩ := Option.map_eq_some_iff.mp h
    exact fun ff => codedAs_of_rmwOp hf (.ix1 ff)
  all_goals
    next hlo =>
      cases h
      simp [nibble_eq_ofNat hlo, encode, encodeRmw, Instr.canonical]

theorem column7_codedAs (h : column7 lo.toNat = some sh) : sh.CodedAs [0x7#4 ++ lo] := by
  unfold column7 at h
  split at h
  case h_6 =>
    obtain ⟨f, hf, rfl⟩ := Option.map_eq_some_iff.mp h
    exact codedAs_of_rmwOp hf .ix
  all_goals
    next hlo =>
      cases h
      simp [nibble_eq_ofNat hlo, encode, encodeRmw, Instr.canonical]

theorem column8_codedAs (h : column8 lo.toNat = some sh) : sh.CodedAs [0x8#4 ++ lo] := by
  unfold column8 at h
  split at h
  case h_15 => cases h
  all_goals
    next hlo =>
      cases h
      simp [nibble_eq_ofNat hlo, encode, Instr.canonical]

theorem column9_codedAs (h : column9 lo.toNat = some sh) : sh.CodedAs [0x9#4 ++ lo] := by
  unfold column9 at h
  split at h
  case h_15 => cases h
  all_goals
    next hlo =>
      cases h
      simp [nibble_eq_ofNat hlo, encode, Instr.canonical]

theorem columnA_codedAs (h : columnA lo.toNat = some sh) : sh.CodedAs [0xA#4 ++ lo] := by
  unfold columnA at h
  split at h
  case h_4 =>
    obtain ⟨f, hf, rfl⟩ := Option.map_eq_some_iff.mp h
    exact fun ii => codedAs_of_accOp hf (.imm ii)
  all_goals
    next hlo =>
      cases h
      simp [nibble_eq_ofNat hlo, encode, Instr.canonical]

/-- Columns $B to $F: it is enough that the column's two shapes follow its mode's encoding. -/
theorem columnMem_codedAs {mem : (MemMode → Instr) → Shape} {jump : (JumpMode → Instr) → Shape} {opcode : List Byte}
    (h : columnMem mem jump lo.toNat = some sh)
    (hmem : ∀ f, (∀ m, (f m).CodedAs (encodeMem lo m)) → (mem f).CodedAs opcode)
    (hjump : ∀ f, (∀ m, (f m).CodedAs (encodeJump lo m)) → (jump f).CodedAs opcode) : sh.CodedAs opcode := by
  unfold columnMem at h
  split at h
  case h_1 f hf =>
    cases h
    exact hjump f (codedAs_of_jumpOp hf)
  case h_2 =>
    obtain ⟨f, hf, rfl⟩ := Option.map_eq_some_iff.mp h
    exact hmem f (codedAs_of_memOp hf)

end Columns

theorem page1_codedAs {b : Byte} {sh : Shape} (h : page1 b = some sh) : sh.CodedAs [b] := by
  obtain ⟨hi, lo, rfl⟩ := exists_eq_append b
  simp only [page1, opHigh_append, opLow_append] at h
  split at h
  case h_17 => cases h
  all_goals
    rename_i hhi
    obtain rfl := nibble_eq_ofNat hhi
  · cases h; exact column0_codedAs lo
  · cases h; exact column1_codedAs lo
  · cases h; exact column2_codedAs lo
  · exact column3_codedAs h
  · exact column4_codedAs h
  · exact column5_codedAs h
  · exact column6_codedAs h
  · exact column7_codedAs h
  · exact column8_codedAs h
  · exact column9_codedAs h
  · exact columnA_codedAs h
  · exact columnMem_codedAs h (fun f hf dd => hf (.dir dd)) (fun f hf dd => hf (.dir dd))
  · exact columnMem_codedAs h (fun f hf hh ll => by simpa [encodeMem] using hf (.ext (word hh ll)))
      (fun f hf hh ll => by simpa [encodeJump] using hf (.ext (word hh ll)))
  · exact columnMem_codedAs h (fun f hf ee ff => by simpa [encodeMem] using hf (.ix2 (word ee ff)))
      (fun f hf ee ff => by simpa [encodeJump] using hf (.ix2 (word ee ff)))
  · exact columnMem_codedAs h (fun f hf ff => hf (.ix1 ff)) (fun f hf ff => hf (.ix1 ff))
  · exact columnMem_codedAs h (fun f hf => hf .ix) (fun f hf => hf .ix)

theorem page2_codedAs {b : Byte} {sh : Shape} (h : page2 b = some sh) : sh.CodedAs [prefixByte, b] := by
  obtain ⟨hi, lo, rfl⟩ := exists_eq_append b
  simp only [page2, opHigh_append, opLow_append] at h
  split at h
  case h_4 => cases h
  all_goals
    rename_i hhi
    obtain rfl := nibble_eq_ofNat hhi
  · split at h
    case h_3 =>
      obtain ⟨f, hf, rfl⟩ := Option.map_eq_some_iff.mp h
      exact fun ff => codedAs_of_rmwOp hf (.sp1 ff)
    all_goals
      next hlo =>
        obtain rfl := nibble_eq_ofNat hlo
        cases h
        exact fun _ _ => ⟨rfl, rfl⟩
  · obtain ⟨f, hf, rfl⟩ := Option.map_eq_some_iff.mp h
    exact fun ee ff => by simpa [encodeMem] using codedAs_of_memOp hf (.sp2 (word ee ff))
  · obtain ⟨f, hf, rfl⟩ := Option.map_eq_some_iff.mp h
    exact fun ff => codedAs_of_memOp hf (.sp1 ff)

/-- Settles O2: the opcode comes from one of the two maps, and what they select has the bytes that select it. -/
theorem decodedBytesAreTheEncoding : Obligations.DecodedBytesAreTheEncoding := by
  intro bytes rest i h
  rcases decode_eq_ok h with ⟨b, l, sh, rfl, hpage, hfill⟩ | ⟨b, l, sh, rfl, hpage, hfill⟩
  · exact (page1_codedAs hpage).fill hfill
  · exact (page2_codedAs hpage).fill hfill

/-! ## Second spellings (R104) -/

/-- An instruction has the name of the opcode map, or is one of the five second spellings. -/
theorem canonical_cases (i : Instr) :
    i.canonical = i ∨ (∃ m, i = .asl m) ∨ i = .asla ∨ i = .aslx ∨ (∃ rr, i = .bhs rr) ∨ ∃ rr, i = .blo rr := by
  unfold Instr.canonical
  split <;> simp

theorem canonical_wellFormed (i : Instr) : i.canonical.WellFormed := by
  rcases canonical_cases i with h | ⟨m, rfl⟩ | rfl | rfl | ⟨rr, rfl⟩ | ⟨rr, rfl⟩
  · rw [h, Instr.WellFormed, h]
  all_goals rfl

theorem encode_canonical (i : Instr) : encode i.canonical = encode i := by
  rcases canonical_cases i with h | ⟨m, rfl⟩ | rfl | rfl | ⟨rr, rfl⟩ | ⟨rr, rfl⟩
  · rw [h]
  all_goals rfl

theorem exec_canonical (i : Instr) (s : Machine.State) : Machine.exec i.canonical s = Machine.exec i s := by
  rcases canonical_cases i with h | ⟨m, rfl⟩ | rfl | rfl | ⟨rr, rfl⟩ | ⟨rr, rfl⟩
  · rw [h]
  all_goals rfl

/-- Settles O3: the name of the map is well formed, so its bytes decode to it. -/
theorem secondSpellingsAreTheSameInstruction : Obligations.SecondSpellingsAreTheSameInstruction := by
  intro i rest s
  refine ⟨?_, (encode_canonical i).symm, (exec_canonical i s).symm⟩
  rw [← encode_canonical]
  exact decode_encode (canonical_wellFormed i) rest

/-! ## Illegal encodings (R100) -/

theorem page1_illegal_iff (b : Byte) :
    b ≠ prefixByte ∧ page1 b = none ↔ b ∈ ([0x32, 0x3E, 0x82, 0x8D, 0x96, 0xAC] : List Byte) := by
  rw [← Option.isNone_iff_eq_none]
  decide +kernel +revert

theorem page2_illegal_iff (b : Byte) :
    page2 b = none ↔
      b ∉ ([0x60, 0x61, 0x63, 0x64, 0x66, 0x67, 0x68, 0x69, 0x6A, 0x6B, 0x6C, 0x6D, 0x6F,
        0xD0, 0xD1, 0xD2, 0xD3, 0xD4, 0xD5, 0xD6, 0xD7, 0xD8, 0xD9, 0xDA, 0xDB, 0xDE, 0xDF,
        0xE0, 0xE1, 0xE2, 0xE3, 0xE4, 0xE5, 0xE6, 0xE7, 0xE8, 0xE9, 0xEA, 0xEB, 0xEE, 0xEF] : List Byte) := by
  rw [← Option.isNone_iff_eq_none]
  decide +kernel +revert

/-- Settles O4: the decoder refuses by name exactly where a map selects nothing. -/
theorem illegalEncodingsAreExactlyTheListed : Obligations.IllegalEncodingsAreExactlyTheListed :=
  ⟨fun b _ => decode_illegalOpcode_iff.trans (page1_illegal_iff b),
    fun b _ => decode_illegalPage2_iff.trans (page2_illegal_iff b)⟩

namespace Machine

theorem fetchShape_illegal_page1 {s t : State} {b : Byte} (hfetch : fetchByte s = .ok (b, t))
    (hb : b ≠ prefixByte) (hpage : page1 b = none) : fetchShape s = .error (.illegalOpcode s.pc s) := by
  rw [fetchShape, hfetch]
  simp only [bind, Except.bind, if_neg hb, hpage]

theorem fetchShape_illegal_page2 {s t u : State} {b : Byte} (hfirst : fetchByte s = .ok (prefixByte, t))
    (hfetch : fetchByte t = .ok (b, u)) (hpage : page2 b = none) :
    fetchShape s = .error (.illegalOpcode s.pc s) := by
  rw [fetchShape, hfirst]
  simp only [bind, Except.bind, if_pos, hfetch, hpage]

/-- The opcode at PC is in neither map (R100); a second byte that shows it can be fetched as memory holds it. -/
def State.IllegalAtPc (s : State) : Prop :=
  (s.mem.read s.pc.toNat ≠ prefixByte ∧ page1 (s.mem.read s.pc.toNat) = none) ∨
  (s.mem.read s.pc.toNat = prefixByte ∧ s.isMemory (s.pc + 1) ∧ s.staleAt (s.pc + 1) = none ∧
    page2 (s.mem.read (s.pc + 1).toNat) = none)

/-- The fetch of an illegal encoding stops in the state before it. -/
theorem fetchInstr_illegal {s : State} (hmemory : s.isMemory s.pc) (hstale : s.staleAt s.pc = none)
    (h : s.IllegalAtPc) : fetchInstr s = .error (.illegalOpcode s.pc s) := by
  have hfetch := fetchByte_memory hmemory hstale
  have hshape : fetchShape s = .error (.illegalOpcode s.pc s) := by
    rcases h with ⟨hb, hpage⟩ | ⟨hb, hmemory', hstale', hpage⟩
    · exact fetchShape_illegal_page1 hfetch hb hpage
    · rw [hb] at hfetch
      exact fetchShape_illegal_page2 hfetch (fetchByte_memory (s := s.setPc (s.pc + 1)) hmemory' hstale') hpage
  rw [fetchInstr, hshape]
  rfl

/-- With no reset and no interrupt, a running machine whose fetch faults stops with that fault. -/
theorem step_of_fetch_fault {s : State} {f : Fault} (hreset : s.sampled.resetRequested = false)
    (hinterrupt : s.sampled.recognised = none) (hmode : s.mode = .running)
    (hfetch : fetchInstr (s.sampled.setInhibitNext false) = .error f) : step s = .fault f := by
  have hrunning : (s.sampled.setInhibitNext false).mode = .running := by simpa using hmode
  simp only [step_of_no_reset hreset, hinterrupt, proceed, hrunning, runInstr, hfetch]

/-- Settles O48: the sample leaves the bytes at PC as they are, so the fetch is the one that faults. -/
theorem illegalEncodingStopsTheStep : Obligations.IllegalEncodingStopsTheStep := by
  intro s hreset hinterrupt hmode hmemory hstale hillegal
  have hmem (a : Addr) : (s.sampled.setInhibitNext false).isMemory a ↔ s.isMemory a := by
    rw [State.isMemory, State.isMemory, State.kindAt_congr (s := s) (by simp)]
  have hstaleAt (a : Addr) : (s.sampled.setInhibitNext false).staleAt a = s.staleAt a := by simp [State.staleAt]
  have hread (a : Addr) : (s.sampled.setInhibitNext false).mem.read a.toNat = s.mem.read a.toNat := by simp
  have hpc : (s.sampled.setInhibitNext false).pc = s.pc := by simp
  have hat : (s.sampled.setInhibitNext false).IllegalAtPc := by
    rw [State.IllegalAtPc, hpc, hread, hread, hmem, hstaleAt]
    rcases hillegal with hb | ⟨hb, hmemory', hstale', b, hdecode⟩
    · exact .inl ((page1_illegal_iff _).mpr hb)
    · exact .inr ⟨hb, hmemory', hstale', page2_of_decode_illegalPage2 hdecode⟩
  have hfetch := fetchInstr_illegal (by rwa [hmem, hpc]) (by rwa [hstaleAt, hpc]) hat
  rw [hpc] at hfetch
  exact step_of_fetch_fault hreset hinterrupt hmode hfetch

/-! ## Effective addresses (R87 to R93) -/

/-- Settles O6: each mode's sum is a 16-bit one, and an offset byte is extended with zeros. -/
theorem effectiveAddressesWrapModulo65536 : Obligations.EffectiveAddressesWrapModulo65536 := by
  intro s b w
  refine ⟨directAddr_toNat b, rfl, hx_toNat s, ?ix1, ?ix2, ?sp1, ?sp2⟩
  case ix1 => rw [ea, BitVec.toNat_add, hx_toNat, zext16_toNat]
  case ix2 => rw [ea, BitVec.toNat_add, hx_toNat]
  case sp1 => rw [ea, BitVec.toNat_add, zext16_toNat]
  case sp2 => rw [ea, BitVec.toNat_add]

end Machine

end Sys2Proof
end

section
/-! PROOFS for 40_data_movement.md: words of the spec's encodings, 16-bit words as numbers, then each group's full
state equation from the law of its shared shape: loads and stores (R120 to R125), stack moves (R126 to R131),
transfers (R132 to R137) and MOV (R138). -/

namespace Sys2Proof

/-! ## Words of the spec -/

/-- The encoding of a well-formed instruction decodes to it, with nothing left over. -/
theorem Instr.CodedAs.decode {i : Instr} {bytes : List Byte} (h : i.CodedAs bytes) : decode bytes = .ok (i, []) := by
  obtain ⟨rfl, hi⟩ := h
  simpa using decode_encode hi []

/-- Settles O5: each word is the encoding of its instruction. -/
theorem specEncodingsDecode : Obligations.SpecEncodingsDecode := by
  refine ⟨?lda, ?ldaSp2, ?mov, ?cbeq, ?brset, ?jsr⟩
  all_goals exact Instr.CodedAs.decode ⟨rfl, rfl⟩

namespace Machine

/-! ## Words as numbers, and H:X (R24) -/

theorem add_one_eq (w : Addr) : w + 1 = BitVec.ofNat 16 (w.toNat + 1) := by
  rw [BitVec.ofNat_add, BitVec.ofNat_toNat, BitVec.setWidth_eq]
  rfl

theorem sub_one_eq (w : Addr) : w - 1 = BitVec.ofInt 16 (w.toNat - 1) := by
  rw [Int.sub_eq_add_neg, BitVec.ofInt_add, BitVec.ofInt_natCast, BitVec.ofNat_toNat, BitVec.setWidth_eq,
    BitVec.sub_eq_add_neg]
  rfl

theorem hiByte_ofNat (n : Nat) : hiByte (BitVec.ofNat 16 n) = BitVec.ofNat 8 (n / 256) := by
  apply BitVec.eq_of_toNat_eq
  rw [hiByte_toNat, BitVec.toNat_ofNat, BitVec.toNat_ofNat]
  omega

theorem loByte_ofNat (n : Nat) : loByte (BitVec.ofNat 16 n) = BitVec.ofNat 8 n := by
  apply BitVec.eq_of_toNat_eq
  rw [loByte_toNat, BitVec.toNat_ofNat, BitVec.toNat_ofNat]
  omega

theorem State.setHx_ofNat (s : State) (n : Nat) :
    s.setHx (BitVec.ofNat 16 n) = { s with h := BitVec.ofNat 8 (n / 256), x := BitVec.ofNat 8 n } := by
  rw [State.setHx, hiByte_ofNat, loByte_ofNat]
  rfl

theorem State.setHx_eq (s : State) (w : Addr) :
    s.setHx w = { s with h := BitVec.ofNat 8 (w.toNat / 256), x := BitVec.ofNat 8 w.toNat } := by
  rw [← s.setHx_ofNat, BitVec.ofNat_toNat, BitVec.setWidth_eq]

/-- The post-increment carries from X into H (R99). -/
theorem State.bumpHx_eq (s : State) :
    s.bumpHx = { s with h := BitVec.ofNat 8 ((s.h.toNat * 256 + s.x.toNat + 1) / 256), x := s.x + 1 } := by
  have hlow : BitVec.ofNat 8 (s.h.toNat * 256 + s.x.toNat + 1) = s.x + 1 := by bv_omega
  rw [State.bumpHx, add_one_eq, hx_toNat, State.setHx_ofNat, hlow]

/-! ## Loads and stores (R120 to R125) -/

theorem exec_ldhx_of_answers {m : Src16} {s : State} (h : src16Answers m s) :
    exec (.ldhx m) s =
      .next (((src16After m s).setHx (src16Value m s)).setCcr ((src16After m s).ccr.moved16 (src16Value m s))) := by
  refine answer_next.mpr ?_
  simp only [bind_ok, operand16_ok, pure_ok]
  exact ⟨_, ⟨h, rfl⟩, rfl⟩

theorem exec_sthx_of_answers {dd : Byte} {s : State} (hhi : s.answers (directAddr dd) = true)
    (hlo : s.answers (directAddr dd + 1) = true) :
    exec (.sthx dd) s =
      .next (((s.afterWrite (directAddr dd) s.h).afterWrite (directAddr dd + 1) s.x).setCcr
        (s.ccr.moved16 s.hx)) := by
  refine answer_next.mpr ?_
  simp only [bind_ok, writeWord_ok, pure_ok]
  exact ⟨_, ⟨hhi, hlo, rfl⟩, by simp [State.hx]⟩

/-- Settles O9: the operand's value and state, by the law of loads; reading it leaves the CCR alone. -/
theorem loadsSetRegisterAndFlags : Obligations.LoadsSetRegisterAndFlags := by
  refine ⟨fun m s h => ⟨?lda, ?ldx⟩, fun m s h => ?ldhx⟩
  case lda => rw [exec_lda, load_next.mpr ⟨h, rfl⟩, srcAfter_ccr, moved8_eq]; rfl
  case ldx => rw [exec_ldx, load_next.mpr ⟨h, rfl⟩, srcAfter_ccr, moved8_eq]; rfl
  case ldhx => rw [exec_ldhx_of_answers h, src16After_ccr, moved16_eq, State.setHx_eq]; rfl

/-- Settles O10: the law of stores; H:X is the word whose bytes STHX stores. -/
theorem storesWriteMemoryAndFlags : Obligations.StoresWriteMemoryAndFlags := by
  refine ⟨fun m s h => ⟨?sta, ?stx⟩, fun dd s hhi hlo => ?sthx⟩
  case sta => rw [exec_sta, store_next.mpr ⟨h, rfl⟩, moved8_eq]; rfl
  case stx => rw [exec_stx, store_next.mpr ⟨h, rfl⟩, moved8_eq]; rfl
  case sthx => rw [exec_sthx_of_answers hhi hlo, moved16_eq, hx_toNat]; rfl

/-! ## Pushes and pulls (R126 to R131) -/

/-- Settles O11: one push or one pull as a meaning, for each register. -/
theorem pushesAndPullsMoveOneByte : Obligations.PushesAndPullsMoveOneByte := by
  refine ⟨fun s hsp => ⟨?psha, ?pshh, ?pshx⟩, fun s hsp => ⟨?pula, ?pulh, ?pulx⟩⟩
  case psha | pshh | pshx => exact push8_next.mpr ⟨hsp, rfl⟩
  case pula => exact pull8_set_next (set := State.setA).mpr ⟨hsp, rfl⟩
  case pulh => exact pull8_set_next (set := State.setH).mpr ⟨hsp, rfl⟩
  case pulx => exact pull8_set_next (set := State.setX).mpr ⟨hsp, rfl⟩

/-! ## Transfers (R132 to R137) -/

/-- The CCR byte as a number: bits 6 and 5 add 96 (R34). -/
theorem Ccr.toByte_eq (f : Ccr) :
    f.toByte = BitVec.ofNat 8 (128 * bitValue f.v + 96 + 16 * bitValue f.hc + 8 * bitValue f.i +
      4 * bitValue f.n + 2 * bitValue f.z + bitValue f.c) := by
  obtain ⟨v, hc, i, n, z, c⟩ := f
  revert v hc i n z c; decide

/-- Settles O12: a transfer is its one assignment; the words of TXS and TSX and the byte of TPA as numbers. -/
theorem transfersCopyRegisters : Obligations.TransfersCopyRegisters := by
  refine fun s => ⟨rfl, ?tpa, rfl, rfl, ?txs, ?tsx⟩
  case tpa => rw [← Ccr.toByte_eq]; rfl
  case txs => rw [← hx_toNat, ← sub_one_eq]; rfl
  case tsx => rw [← State.setHx_ofNat, ← add_one_eq]; rfl

/-! ## MOV (R138) -/

theorem movFlags_eq (v : Byte) (s : State) : movFlags v s = { s with ccr := flagsOfByte s.ccr v.toNat } := by
  rw [movFlags, moved8_eq]
  rfl

/-- A byte copied, read before write: the write and what follows it see the state after the read. -/
theorem copyByte_of_answers {src : Addr} {dst : State → Addr} {finish : Byte → State → State} {s : State}
    (hsrc : s.answers src = true) (hdst : s.answers (dst (s.afterRead src)) = true) :
    (answer do
      let (v, s) ← readByte src s
      let s ← writeByte (dst s) v s
      return finish v s) =
      .next (finish (s.byteAt src) ((s.afterRead src).afterWrite (dst (s.afterRead src)) (s.byteAt src))) := by
  simp only [answer_next, bind_ok, readByte_ok, writeByte_ok, pure_ok]
  exact ⟨_, ⟨hsrc, rfl⟩, _, ⟨by simpa using hdst, rfl⟩, rfl⟩

theorem exec_mov_dd {src dst : Byte} {s : State} (hsrc : s.answers (directAddr src) = true)
    (hdst : s.answers (directAddr dst) = true) :
    exec (.mov (.dd src dst)) s = .next (movFlags (s.byteAt (directAddr src))
      ((s.afterRead (directAddr src)).afterWrite (directAddr dst) (s.byteAt (directAddr src)))) :=
  copyByte_of_answers (dst := fun _ => directAddr dst) (finish := movFlags) hsrc hdst

theorem exec_mov_dixPlus {src : Byte} {s : State} (hsrc : s.answers (directAddr src) = true)
    (hdst : s.answers s.hx = true) :
    exec (.mov (.dixPlus src)) s = .next (movFlags (s.byteAt (directAddr src))
      ((s.afterRead (directAddr src)).afterWrite s.hx (s.byteAt (directAddr src))).bumpHx) := by
  have hhx : (s.afterRead (directAddr src)).hx = s.hx := by simp [State.hx]
  rw [← hhx] at hdst ⊢
  exact copyByte_of_answers (dst := State.hx) (finish := fun v s => movFlags v s.bumpHx) hsrc hdst

theorem exec_mov_imd {ii dst : Byte} {s : State} (hdst : s.answers (directAddr dst) = true) :
    exec (.mov (.imd ii dst)) s = .next (movFlags ii (s.afterWrite (directAddr dst) ii)) := by
  refine answer_next.mpr ?_
  simp only [bind_ok, writeByte_ok, pure_ok]
  exact ⟨_, ⟨hdst, rfl⟩, rfl⟩

theorem exec_mov_ixPlusD {dst : Byte} {s : State} (hsrc : s.answers s.hx = true)
    (hdst : s.answers (directAddr dst) = true) :
    exec (.mov (.ixPlusD dst)) s = .next (movFlags (s.byteAt s.hx)
      ((s.afterRead s.hx).afterWrite (directAddr dst) (s.byteAt s.hx)).bumpHx) :=
  copyByte_of_answers (dst := fun _ => directAddr dst) (finish := fun v s => movFlags v s.bumpHx) hsrc hdst

/-- Settles O14: one lemma for each form; the accesses leave H, X and the CCR to the increment and the flags. -/
theorem movCopiesOneByte : Obligations.MovCopiesOneByte := by
  refine ⟨fun src dst s hsrc hdst => ?dd, fun src s hsrc hdst => ?dixPlus, fun ii dst s hdst => ?imd,
    fun dst s hsrc hdst => ?ixPlusD⟩
  case dd => rw [exec_mov_dd hsrc hdst, movFlags_eq]; simp
  case dixPlus => rw [exec_mov_dixPlus hsrc hdst, movFlags_eq, State.bumpHx_eq]; simp
  case imd => rw [exec_mov_imd hdst, movFlags_eq]; simp
  case ixPlusD => rw [exec_mov_ixPlusD hsrc hdst, movFlags_eq, State.bumpHx_eq]; simp

end Machine

end Sys2Proof
end

section
/-! PROOFS for 41_arithmetic.md: the flag formulas in exact arithmetic (R12 to R14), then each group's full state
equation from the law of its shared shape: accumulator operations and compares (R160 to R163, R170 to R172), MUL and
DIV (R164, R165), the read-modify-write group (R166 to R169), CLR and TST (R173, R174), AIS and AIX (R175, R176),
and the branches after CMP (R240). -/

namespace Sys2Proof.Machine

/-! ## Accumulator operations (R160 to R163) -/

theorem addOp_eq (a m : Byte) (f : Ccr) :
    addOp a m f = (BitVec.ofNat 8 (a.toNat + m.toNat),
      flagsOfSum f (a.toNat + m.toNat) (a.toNat % 16 + m.toNat % 16) (a.toInt + m.toInt)) := by
  rw [addOp, add8_eq]
  simp [bitValue]

theorem subOp_eq (a m : Byte) (f : Ccr) :
    subOp a m f = (BitVec.ofInt 8 ((a.toNat : Int) - m.toNat),
      flagsOfDifference f 256 ((a.toNat : Int) - m.toNat) (a.toInt - m.toInt)) := by
  rw [subOp, sub8_eq]
  simp [bitValue]

/-- Reading the operand leaves A and the CCR for the operation as they were. -/
theorem accumulate_of_answers {op : Byte → Byte → Ccr → Byte × Ccr} {m : Src} {s : State} (h : srcAnswers m s) :
    accumulate op m s = .next { srcAfter m s with
      a := (op s.a (srcValue m s) s.ccr).1, ccr := (op s.a (srcValue m s) s.ccr).2 } := by
  rw [accumulate_next.mpr ⟨h, rfl⟩, srcAfter_a, srcAfter_ccr]
  rfl

/-- Settles O15: ADD8 in exact arithmetic, with carry-in 0 and with the old C. -/
theorem additionsSumAndSetFlags : Obligations.AdditionsSumAndSetFlags := by
  refine fun m s h => ⟨?add, ?adc⟩
  case add => rw [exec_add, accumulate_of_answers h, addOp_eq]
  case adc => rw [exec_adc, accumulate_of_answers h, adcOp, add8_eq]

/-- Settles O16: SUB8 in exact arithmetic, with borrow-in 0 and with the old C. -/
theorem subtractionsBorrowAndSetFlags : Obligations.SubtractionsBorrowAndSetFlags := by
  refine fun m s h => ⟨?sub, ?sbc⟩
  case sub => rw [exec_sub, accumulate_of_answers h, subOp_eq]
  case sbc => rw [exec_sbc, accumulate_of_answers h, sbcOp, sub8_eq]

/-! ## Compares (R170 to R172) -/

theorem exec_cphx_of_answers {m : Src16} {s : State} (h : src16Answers m s) :
    exec (.cphx m) s = .next ((src16After m s).setCcr (sub16 s.hx (src16Value m s) s.ccr).2) := by
  refine answer_next.mpr ?_
  simp only [bind_ok, operand16_ok, pure_ok]
  exact ⟨_, ⟨h, rfl⟩, by simp⟩

/-- Settles O17: the flags of the subtraction, its result discarded. -/
theorem comparesSetFlagsOnly : Obligations.ComparesSetFlagsOnly := by
  refine ⟨fun m s h => ⟨?cmp, ?cpx⟩, fun m s h => ?cphx⟩
  case cmp => rw [exec_cmp, compare_next.mpr ⟨h, rfl⟩, srcAfter_a, srcAfter_ccr, subOp_eq]; rfl
  case cpx => rw [exec_cpx, compare_next.mpr ⟨h, rfl⟩, srcAfter_x, srcAfter_ccr, subOp_eq]; rfl
  case cphx => rw [exec_cphx_of_answers h, sub16_eq]; rfl

/-! ## MUL and DIV (R164, R165) -/

/-- Settles O18: the product as a word, and its two bytes. -/
theorem mulLeavesProductInXA : Obligations.MulLeavesProductInXA := by
  intro s
  rw [← hiByte_ofNat, ← loByte_ofNat]
  rfl

/-- A zero divisor is never above H, so one comparison decides (R165). -/
theorem State.divOverflows_eq (s : State) : s.divOverflows = decide (s.x.toNat ≤ s.h.toNat) := by
  have hzero : s.x = 0 → s.x.toNat ≤ s.h.toNat := fun h => by simp [h]
  simpa [State.divOverflows] using hzero

/-- With H below X the quotient of H:A by X is a byte. -/
theorem quotient_lt {h a x : Byte} (hlt : h.toNat < x.toNat) : (h.toNat * 256 + a.toNat) / x.toNat < 256 := by
  have := a.isLt
  exact Nat.div_lt_of_lt_mul (by omega)

theorem byte_beq_eq_decide (b c : Byte) : (b == c) = decide (b.toNat = c.toNat) := by
  rw [beq_eq_decide, decide_eq_decide, BitVec.toNat_inj]

/-- Settles O19: by `divOverflows`; where the quotient is a byte, Z is that of the exact quotient. -/
theorem divGivesQuotientOrFreeValues : Obligations.DivGivesQuotientOrFreeValues := by
  intro s
  have hexec : exec .div s = execDiv s := rfl
  refine ⟨fun hlt => ?fits, fun hle => ?overflows⟩
  case fits =>
    have hbyte := Nat.mod_eq_of_lt (quotient_lt (a := s.a) hlt)
    simp only [hexec, execDiv, s.divOverflows_eq, Nat.not_le.mpr hlt, decide_false, byte_beq_eq_decide,
      BitVec.toNat_ofNat, Nat.reducePow, hbyte]
    rfl
  case overflows =>
    simp only [hexec, execDiv, s.divOverflows_eq, hle, decide_true]
    rfl

/-! ## The read-modify-write group (R166 to R169) -/

/-- N and Z of a byte by its value (R12). -/
theorem Ccr.nz8_eq (f : Ccr) (r : Byte) :
    f.nz8 r = { f with n := decide (128 ≤ r.toNat), z := decide (r.toNat = 0) } := by
  rw [Ccr.nz8, BitVec.msb_eq_decide, byte_beq_eq_decide]
  rfl

/-- Three instructions that are one operation on memory, on A and on X run every operation equal to it. -/
theorem runsOnAllForms_of_op {onMem : RmwMode → Instr} {onA onX : Instr} {op spec : Byte → Ccr → Byte × Ccr}
    (hmem : ∀ m s, exec (onMem m) s = modify op m s) (ha : ∀ s, exec onA s = modifyA op s)
    (hx : ∀ s, exec onX s = modifyX op s) (hop : ∀ m f, op m f = spec m f) :
    RunsOnAllForms onMem onA onX spec := by
  obtain rfl : op = spec := funext fun m => funext (hop m)
  exact ⟨ha, hx, fun m s h => by rw [hmem, modify_next.mpr ⟨h, rfl⟩]; rfl⟩

theorem incOp_eq (m : Byte) (f : Ccr) :
    incOp m f = (BitVec.ofNat 8 (m.toNat + 1),
      { f with v := decide (m.toNat = 127), n := decide (128 ≤ (m.toNat + 1) % 256)
               z := decide ((m.toNat + 1) % 256 = 0) }) := by
  have hr : m + 1 = BitVec.ofNat 8 (m.toNat + 1) := by bv_omega
  have hv : (m == 0x7F) = decide (m.toNat = 127) := byte_beq_eq_decide m 0x7F
  rw [incOp, Ccr.nz8_eq, hr, hv, BitVec.toNat_ofNat]

theorem decOp_eq (m : Byte) (f : Ccr) :
    decOp m f = (BitVec.ofInt 8 ((m.toNat : Int) - 1),
      { f with v := decide (m.toNat = 128), n := decide (128 ≤ (m.toNat + 255) % 256)
               z := decide ((m.toNat + 255) % 256 = 0) }) := by
  have hn : (m - 1).toNat = (m.toNat + 255) % 256 := by bv_omega
  have hr : m - 1 = BitVec.ofInt 8 ((m.toNat : Int) - 1) := by
    apply BitVec.eq_of_toNat_eq
    rw [hn, BitVec.toNat_ofInt]
    omega
  have hv : (m == 0x80) = decide (m.toNat = 128) := byte_beq_eq_decide m 0x80
  rw [decOp, Ccr.nz8_eq, hn, hv, hr]

theorem comOp_eq (m : Byte) (f : Ccr) :
    comOp m f = (BitVec.ofNat 8 (255 - m.toNat),
      { f with v := false, c := true, n := decide (128 ≤ 255 - m.toNat), z := decide (255 - m.toNat = 0) }) := by
  have hn : (0xFF - m).toNat = 255 - m.toNat := by bv_omega
  rw [comOp, Ccr.nz8_eq, ← hn, BitVec.ofNat_toNat, BitVec.setWidth_eq]

/-- NEG is the subtraction from zero: the one byte whose negation overflows is $80. -/
theorem negOp_eq (m : Byte) (f : Ccr) :
    negOp m f = (BitVec.ofNat 8 (256 - m.toNat),
      { f with v := decide (m.toNat = 128), c := decide (m.toNat ≠ 0)
               n := decide (128 ≤ (256 - m.toNat) % 256), z := decide (m.toNat = 0) }) := by
  have hr : BitVec.ofInt 8 (0 - (m.toNat : Int)) = BitVec.ofNat 8 (256 - m.toNat) := by
    apply BitVec.eq_of_toNat_eq
    rw [BitVec.toNat_ofInt, BitVec.toNat_ofNat]
    omega
  have hm := toInt_cases m
  have hsub : negOp m f = subOp 0x00 m f := rfl
  rw [hsub, subOp_eq]
  simp only [flagsOfDifference, BitVec.ofNat_eq_ofNat, BitVec.toNat_ofNat, Nat.zero_mod, Nat.cast_zero, hr,
    BitVec.toInt_zero, Prod.mk.injEq, Ccr.mk.injEq, decide_eq_decide, true_and]
  refine ⟨?overflow, ?negative, ?zero, ?borrow⟩
  all_goals omega

/-- Settles O20: INC and DEC as operations, in exact arithmetic. -/
theorem incrementsAndDecrementsKeepCarry : Obligations.IncrementsAndDecrementsKeepCarry :=
  ⟨runsOnAllForms_of_op exec_inc exec_inca exec_incx incOp_eq,
    runsOnAllForms_of_op exec_dec exec_deca exec_decx decOp_eq⟩

/-- Settles O21: COM and NEG as operations, in exact arithmetic. -/
theorem complementAndNegate : Obligations.ComplementAndNegate :=
  ⟨runsOnAllForms_of_op exec_com exec_coma exec_comx comOp_eq,
    runsOnAllForms_of_op exec_neg exec_nega exec_negx negOp_eq⟩

/-! ## CLR and TST (R173, R174) -/

theorem clrRead_of_answers {a : Addr} {s : State} (h : s.answers a = true) :
    clrRead a s = .ok (if s.platform.clrReadsFirst then s.afterRead a else s) := by
  unfold clrRead
  split
  · simp only [bind_ok, readByte_ok, pure_ok]
    exact ⟨_, ⟨h, rfl⟩, rfl⟩
  · rfl

theorem exec_clr_of_answers {m : RmwMode} {s : State} (h : s.answers (ea (rmwMem m) s) = true) :
    exec (.clr m) s = .next
      (((if s.platform.clrReadsFirst then s.afterRead (ea (rmwMem m) s) else s).afterWrite
        (ea (rmwMem m) s) 0).setCcr s.ccr.cleared) := by
  refine answer_next.mpr ?_
  simp only [bind_ok, clrRead_of_answers h, writeByte_ok, pure_ok]
  refine ⟨_, rfl, _, ⟨?answers, rfl⟩, ?flags⟩
  case answers => split <;> simpa using h
  case flags => split <;> simp

theorem exec_tst_of_answers {m : RmwMode} {s : State} (h : s.answers (ea (rmwMem m) s) = true) :
    exec (.tst m) s = .next
      ((s.afterRead (ea (rmwMem m) s)).setCcr (s.ccr.moved8 (s.byteAt (ea (rmwMem m) s)))) := by
  refine answer_next.mpr ?_
  simp only [bind_ok, readByte_ok, pure_ok]
  exact ⟨_, ⟨h, rfl⟩, by simp⟩

/-- Settles O22: the register forms are one assignment each; the memory forms by their accesses. -/
theorem clearsAndTests : Obligations.ClearsAndTests := by
  refine ⟨fun s => ⟨rfl, rfl, rfl, ?tsta, ?tstx⟩, fun m s h => ⟨?clr, ?tst⟩⟩
  case tsta | tstx => rw [← moved8_eq]; rfl
  case clr => rw [exec_clr_of_answers h]; rfl
  case tst => rw [exec_tst_of_answers h, moved8_eq]; rfl

/-! ## AIS and AIX (R175, R176) -/

theorem hiByte_ofInt (n : Int) : hiByte (BitVec.ofInt 16 n) = BitVec.ofInt 8 (n / 256) := by
  apply BitVec.eq_of_toNat_eq
  rw [hiByte_toNat, BitVec.toNat_ofInt, BitVec.toNat_ofInt]
  omega

theorem loByte_ofInt (n : Int) : loByte (BitVec.ofInt 16 n) = BitVec.ofInt 8 n := by
  apply BitVec.eq_of_toNat_eq
  rw [loByte_toNat, BitVec.toNat_ofInt, BitVec.toNat_ofInt]
  omega

/-- Settles O23: the 16-bit sum as a number; the high byte of H:X does not reach the low byte of the sum. -/
theorem aisAndAixAddSigned : Obligations.AisAndAixAddSigned := by
  refine fun ii s => ⟨?ais, ?aix⟩
  case ais => rw [← add_sext16]; rfl
  case aix =>
    have hsum : s.hx + sext16 ii = BitVec.ofInt 16 (s.h.toNat * 256 + s.x.toNat + ii.toInt) := by
      rw [add_sext16, hx_toNat]; rfl
    have hlow : BitVec.ofInt 8 (s.h.toNat * 256 + s.x.toNat + ii.toInt) = BitVec.ofInt 8 (s.x.toNat + ii.toInt) := by
      apply BitVec.eq_of_toNat_eq
      rw [BitVec.toNat_ofInt, BitVec.toNat_ofInt]
      omega
    rw [← hiByte_ofInt, ← hlow, ← loByte_ofInt, ← hsum]
    rfl

/-! ## Branches after CMP (R170, R240) -/

section Orders
variable (a m : Byte) (f : Ccr)

theorem subOp_c : (subOp a m f).2.c = decide (a.toNat < m.toNat) := by
  rw [subOp_eq, flagsOfDifference, decide_eq_decide]
  omega

theorem subOp_z : (subOp a m f).2.z = decide (a.toNat = m.toNat) := by
  have := a.isLt
  have := m.isLt
  rw [subOp_eq, flagsOfDifference, decide_eq_decide]
  omega

/-- N is the sign of the difference unless it overflowed, so N xor V is the sign of the exact difference. -/
theorem subOp_n_xor_v : ((subOp a m f).2.n ^^ (subOp a m f).2.v) = decide (a.toInt < m.toInt) := by
  have ha := toInt_cases a
  have hm := toInt_cases m
  rw [subOp_eq, flagsOfDifference, Bool.eq_iff_iff, Bool.xor_iff_ne, ne_eq, decide_eq_decide, decide_eq_true_iff]
  omega

theorem subOp_higher : (subOp a m f).2.higher = decide (m.toNat < a.toNat) := by
  rw [Ccr.higher, subOp_c, subOp_z, ← Bool.decide_or, ← decide_not, decide_eq_decide]
  omega

theorem subOp_greaterEq : (subOp a m f).2.greaterEq = decide (m.toInt ≤ a.toInt) := by
  rw [Ccr.greaterEq, subOp_n_xor_v, ← decide_not, decide_eq_decide]
  omega

theorem subOp_greater : (subOp a m f).2.greater = decide (m.toInt < a.toInt) := by
  have hinj : a.toNat = m.toNat ↔ a.toInt = m.toInt := by rw [BitVec.toNat_inj, BitVec.toInt_inj]
  rw [Ccr.greater, subOp_n_xor_v, subOp_z, ← Bool.decide_or, ← decide_not, decide_eq_decide]
  omega

end Orders

/-- A branch whose condition says `p`, with its target as a number (R94, R240). -/
theorem branch_of_eq_decide {cond : Bool} {p : Prop} [Decidable p] {s : State} (h : cond = decide p) (rr : Byte) :
    branch cond rr s = .next (if p then { s with pc := BitVec.ofInt 16 (s.pc.toNat + rr.toInt) } else s) := by
  rw [h, ← add_sext16]
  simp only [branch, State.branchIf, decide_eq_true_eq]
  rfl

/-- Settles O29: each branch condition on the flags of CMP is an order of its operands; BHS, BLS, BLT and BLE test
the negation of what BLO, BHI, BGE and BGT test. -/
theorem branchesAfterCompareOrderTheOperands : Obligations.BranchesAfterCompareOrderTheOperands := by
  intro m s t rr h
  have hccr : t.ccr = (subOp s.a (srcValue m s) s.ccr).2 := by
    obtain ⟨_, rfl⟩ := compare_next.mp h
    simp
  refine ⟨branch_of_eq_decide ?bhi rr, branch_of_eq_decide ?bhs rr, branch_of_eq_decide ?blo rr,
    branch_of_eq_decide ?bls rr, branch_of_eq_decide ?bgt rr, branch_of_eq_decide ?bge rr,
    branch_of_eq_decide ?blt rr, branch_of_eq_decide ?ble rr⟩
  all_goals rw [hccr]
  case bhi => exact subOp_higher ..
  case bhs => rw [subOp_c, ← decide_not, decide_eq_decide, not_lt]
  case blo => exact subOp_c ..
  case bls => rw [subOp_higher, ← decide_not, decide_eq_decide, not_lt]
  case bgt => exact subOp_greater ..
  case bge => exact subOp_greaterEq ..
  case blt => rw [subOp_greaterEq, ← decide_not, decide_eq_decide, not_le]
  case ble => rw [subOp_greater, ← decide_not, decide_eq_decide, not_lt]

end Sys2Proof.Machine
end

section
/-! PROOFS for 42_logic_bits.md: AND, ORA, EOR and BIT (R200 to R203) and BCLR and BSET (R204, R205) from the laws of
their shared shapes, the bits of what BCLR and BSET write, and the flag instructions (R206 to R209). -/

namespace Sys2Proof.Machine

/-! ## Logic (R200 to R203) -/

theorem andOp_eq (a m : Byte) (f : Ccr) : andOp a m f = (a &&& m, flagsOfByte f (a.toNat &&& m.toNat)) := by
  rw [andOp, moved8_eq, BitVec.toNat_and]

theorem oraOp_eq (a m : Byte) (f : Ccr) : oraOp a m f = (a ||| m, flagsOfByte f (a.toNat ||| m.toNat)) := by
  rw [oraOp, moved8_eq, BitVec.toNat_or]

theorem eorOp_eq (a m : Byte) (f : Ccr) : eorOp a m f = (a ^^^ m, flagsOfByte f (a.toNat ^^^ m.toNat)) := by
  rw [eorOp, moved8_eq, BitVec.toNat_xor]

/-- Settles O24: AND, ORA and EOR by the law of accumulator operations; BIT keeps the flags of AND and drops its
result. -/
theorem logicCombinesBitByBit : Obligations.LogicCombinesBitByBit := by
  refine fun m s h => ⟨?and, ?ora, ?eor, ?bit⟩
  case and => rw [exec_and, accumulate_of_answers h, andOp_eq]
  case ora => rw [exec_ora, accumulate_of_answers h, oraOp_eq]
  case eor => rw [exec_eor, accumulate_of_answers h, eorOp_eq]
  case bit => rw [exec_bit, compare_next.mpr ⟨h, rfl⟩, srcAfter_a, srcAfter_ccr, andOp_eq]; rfl

/-! ## One bit of a byte (R204, R205) -/

/-- The mask of bit `n` has that bit and no other (R96). -/
theorem getLsbD_bitMask (n : BitNum) (k : Nat) : (bitMask n).getLsbD k = decide (k = n.toNat) := by
  have hmask : bitMask n = BitVec.twoPow 8 n.toNat := rfl
  rw [hmask, BitVec.getLsbD_twoPow, decide_eq_true n.isLt, Bool.true_and, decide_eq_decide, eq_comm]

/-- AND with the complement of the mask clears bit `n` and keeps the others. -/
theorem getLsbD_and_not_bitMask (v : Byte) (n : BitNum) {k : Nat} (hk : k < 8) :
    (v &&& ~~~(bitMask n)).getLsbD k = (decide (k ≠ n.toNat) && v.getLsbD k) := by
  rw [BitVec.getLsbD_and, BitVec.getLsbD_not, getLsbD_bitMask, decide_eq_true hk, Bool.true_and, ← decide_not,
    Bool.and_comm]

/-- OR with the mask sets bit `n` and keeps the others. -/
theorem getLsbD_or_bitMask (v : Byte) (n : BitNum) (k : Nat) :
    (v ||| bitMask n).getLsbD k = (decide (k = n.toNat) || v.getLsbD k) := by
  rw [BitVec.getLsbD_or, getLsbD_bitMask, Bool.or_comm]

/-- Settles O25: the bytes written are the byte read with the mask of bit `n` taken out and put in. -/
theorem bitInstructionsChangeOneBit : Obligations.BitInstructionsChangeOneBit := by
  refine fun n dd s h => ⟨s.byteAt (directAddr dd) &&& ~~~(bitMask n), s.byteAt (directAddr dd) ||| bitMask n,
    ?bclr, ?bset, fun k hk => ⟨?clear, ?set⟩⟩
  case bclr => rw [exec_bclr, modifyBit_next.mpr ⟨h, rfl⟩]
  case bset => rw [exec_bset, modifyBit_next.mpr ⟨h, rfl⟩]
  case clear => exact getLsbD_and_not_bitMask _ n hk
  case set => exact getLsbD_or_bitMask _ n k

/-! ## Flag instructions (R206 to R209) -/

/-- Settles O26: each is its one assignment to the CCR; CLI also sets the delay. -/
theorem flagInstructionsWriteOneFlag : Obligations.FlagInstructionsWriteOneFlag := by
  refine fun s => ⟨?clc, ?sec, ?cli, ?sei⟩
  case clc | sec | cli | sei => rfl

end Sys2Proof.Machine
end

section
/-! PROOFS for 43_shifts_rotates.md: the bit that leaves a byte, the byte it leaves behind and the flags (R220 to
R225) as numbers, then each shift and rotate as an operation of the read-modify-write group. -/

namespace Sys2Proof.Machine

/-! ## The bit shifted out and the flags -/

theorem getLsbD_zero_eq_decide (m : Byte) : m.getLsbD 0 = decide (m.toNat % 2 = 1) := Nat.testBit_zero _

theorem getLsbD_seven_eq_decide (m : Byte) : m.getLsbD 7 = decide (128 ≤ m.toNat) :=
  m.msb_eq_getLsbD_last.symm.trans m.msb_eq_decide

/-- The flags after a shift by the number of its result: V is the new N xor the new C. -/
theorem Ccr.shifted_eq (f : Ccr) (r : Byte) (out : Bool) : f.shifted r out = flagsOfShift f r.toNat out := by
  rw [Ccr.shifted, Ccr.nz8_eq, BitVec.msb_eq_decide]
  rfl

/-! ## The byte moved one place, with a bit filled in at the free end -/

theorem toNat_shiftLeft_one (m : Byte) : (m <<< 1).toNat = 2 * m.toNat % 256 := by bv_omega

theorem toNat_shiftRight_one (m : Byte) : (m >>> 1).toNat = m.toNat / 2 := by bv_omega

theorem toNat_carryBit (c : Bool) : ((BitVec.ofBool c).setWidth 8).toNat = bitValue c := by cases c <;> rfl

theorem toNat_carryBit_shiftLeft_seven (c : Bool) :
    ((BitVec.ofBool c).setWidth 8 <<< 7).toNat = 128 * bitValue c := by cases c <;> rfl

/-- The mask $80 keeps bit 7 alone. -/
theorem toNat_and_signBit (m : Byte) : (m &&& 0x80).toNat = 128 * (m.toNat / 128) := by
  have hm := m.isLt
  have hand : m.toNat &&& 2 ^ 7 = (m.getLsbD 7).toNat * 2 ^ 7 := Nat.and_two_pow ..
  rw [getLsbD_seven_eq_decide] at hand
  refine (BitVec.toNat_and ..).trans (hand.trans ?_)
  by_cases h : 128 ≤ m.toNat <;> simp [h] <;> omega

/-- Bit 0 is free after a move to the left, so a carry put there adds its value. -/
theorem toNat_shiftLeft_or_carryBit (m : Byte) (c : Bool) :
    ((m <<< 1) ||| (BitVec.ofBool c).setWidth 8).toNat = (2 * m.toNat + bitValue c) % 256 := by
  have hc : bitValue c < 2 ^ 1 := by cases c <;> decide
  have hleft : (m <<< 1).toNat = 2 ^ 1 * (m.toNat % 128) := by rw [toNat_shiftLeft_one]; omega
  rw [BitVec.toNat_or, hleft, toNat_carryBit, ← Nat.two_pow_add_eq_or_of_lt hc]
  omega

/-- Bit 7 is free after a move to the right, so a bit put there adds 128 times its value. -/
theorem toNat_shiftRight_or (m : Byte) {fill : Byte} {b : Nat} (hfill : fill.toNat = 128 * b) :
    ((m >>> 1) ||| fill).toNat = m.toNat / 2 + 128 * b := by
  have hm : m.toNat / 2 < 2 ^ 7 := by have := m.isLt; omega
  rw [BitVec.toNat_or, toNat_shiftRight_one, hfill, Nat.or_comm, Nat.add_comm]
  exact (Nat.two_pow_add_eq_or_of_lt hm b).symm

/-! ## Each operation in exact arithmetic (R220 to R225) -/

theorem lslOp_eq (m : Byte) (f : Ccr) :
    lslOp m f = (BitVec.ofNat 8 (2 * m.toNat), flagsOfShift f (2 * m.toNat % 256) (decide (128 ≤ m.toNat))) := by
  have hr : m <<< 1 = BitVec.ofNat 8 (2 * m.toNat) := BitVec.eq_of_toNat_eq (toNat_shiftLeft_one m)
  rw [lslOp, Ccr.shifted_eq, toNat_shiftLeft_one, getLsbD_seven_eq_decide, hr]

/-- ASR keeps the sign bit, so it halves the signed value, rounding down. -/
theorem asrOp_eq (m : Byte) (f : Ccr) :
    asrOp m f = (BitVec.ofInt 8 (m.toInt / 2),
      flagsOfShift f (m.toNat / 2 + (m.toNat / 128) * 128) (decide (m.toNat % 2 = 1))) := by
  have hn : ((m >>> 1) ||| (m &&& 0x80)).toNat = m.toNat / 2 + m.toNat / 128 * 128 := by
    rw [toNat_shiftRight_or m (toNat_and_signBit m), Nat.mul_comm]
  have hr : (m >>> 1) ||| (m &&& 0x80) = BitVec.ofInt 8 (m.toInt / 2) := by
    have hm := toInt_cases m
    apply BitVec.eq_of_toNat_eq
    rw [hn, BitVec.toNat_ofInt]
    omega
  rw [asrOp, Ccr.shifted_eq, hn, getLsbD_zero_eq_decide, hr]

theorem lsrOp_eq (m : Byte) (f : Ccr) :
    lsrOp m f = (BitVec.ofNat 8 (m.toNat / 2), flagsOfShift f (m.toNat / 2) (decide (m.toNat % 2 = 1))) := by
  rw [lsrOp, Ccr.shifted_eq, ← toNat_shiftRight_one, getLsbD_zero_eq_decide, BitVec.ofNat_toNat, BitVec.setWidth_eq]

theorem rolOp_eq (m : Byte) (f : Ccr) :
    rolOp m f = (BitVec.ofNat 8 (2 * m.toNat + bitValue f.c),
      flagsOfShift f ((2 * m.toNat + bitValue f.c) % 256) (decide (128 ≤ m.toNat))) := by
  have hn := toNat_shiftLeft_or_carryBit m f.c
  have hr : (m <<< 1) ||| (BitVec.ofBool f.c).setWidth 8 = BitVec.ofNat 8 (2 * m.toNat + bitValue f.c) :=
    BitVec.eq_of_toNat_eq hn
  rw [rolOp, Ccr.shifted_eq, hn, getLsbD_seven_eq_decide, hr]

theorem rorOp_eq (m : Byte) (f : Ccr) :
    rorOp m f = (BitVec.ofNat 8 (m.toNat / 2 + 128 * bitValue f.c),
      flagsOfShift f (m.toNat / 2 + 128 * bitValue f.c) (decide (m.toNat % 2 = 1))) := by
  have hn := toNat_shiftRight_or m (toNat_carryBit_shiftLeft_seven f.c)
  rw [rorOp, Ccr.shifted_eq, ← hn, getLsbD_zero_eq_decide, BitVec.ofNat_toNat, BitVec.setWidth_eq]

/-- Settles O27: each shift and rotate as an operation, in exact arithmetic; ASL is LSL (R220). -/
theorem shiftsAndRotatesMoveOnePlace : Obligations.ShiftsAndRotatesMoveOnePlace :=
  ⟨runsOnAllForms_of_op exec_lsl exec_lsla exec_lslx lslOp_eq,
    runsOnAllForms_of_op exec_asl exec_asla exec_aslx lslOp_eq,
    runsOnAllForms_of_op exec_asr exec_asra exec_asrx asrOp_eq,
    runsOnAllForms_of_op exec_lsr exec_lsra exec_lsrx lsrOp_eq,
    runsOnAllForms_of_op exec_rol exec_rola exec_rolx rolOp_eq,
    runsOnAllForms_of_op exec_ror exec_rora exec_rorx rorOp_eq⟩

end Sys2Proof.Machine
end

section
/-! PROOFS for 44_program_control.md: a branch as one assignment to PC, then the branches by the condition each tests
(R240 to R262), the bit branches (R263, R264), DBNZ (R266), jumps, calls and returns (R267 to R270) by two pushes and
two pulls in closed form, and SWI and RTI (R271, R272) by the laws of exception entry and return. -/

namespace Sys2Proof.Machine

/-! ## A branch as one assignment to PC (R94, R240) -/

theorem State.rel_eq (s : State) (rr : Byte) : s.rel rr = BitVec.ofInt 16 (s.pc.toNat + rr.toInt) := add_sext16 _ _

theorem State.branchIf_eq (s : State) (cond : Bool) (rr : Byte) :
    s.branchIf cond rr = { s with pc := if cond then BitVec.ofInt 16 (s.pc.toNat + rr.toInt) else s.pc } := by
  rw [← State.rel_eq]
  cases cond <;> rfl

/-! ## Branches on the flags and the IRQ pin (R240 to R262) -/

/-- A branch on a condition that says `p` follows `p`. -/
theorem branchesWhen_of_iff {i : Byte → Instr} {cond : State → Bool} {p : State → Prop}
    (hexec : ∀ rr s, exec (i rr) s = branch (cond s) rr s) (hcond : ∀ s, cond s = true ↔ p s) : BranchesWhen i p := by
  intro rr s
  rw [hexec, branch_of_eq_decide (p := cond s = true) Bool.decide_eq_true.symm]
  exact ⟨fun hp => by rw [if_pos ((hcond s).mpr hp)], fun hp => by rw [if_neg (mt (hcond s).mp hp)]⟩

theorem branchesWhen_set {i : Byte → Instr} {flag : State → Bool}
    (hexec : ∀ rr s, exec (i rr) s = branch (flag s) rr s) : BranchesWhen i (fun s => flag s = true) :=
  branchesWhen_of_iff hexec fun _ => Iff.rfl

theorem branchesWhen_clear {i : Byte → Instr} {flag : State → Bool}
    (hexec : ∀ rr s, exec (i rr) s = branch (!flag s) rr s) : BranchesWhen i (fun s => flag s = false) :=
  branchesWhen_of_iff hexec fun _ => (Bool.not_eq_true' _).to_iff

theorem Ccr.higher_iff (f : Ccr) : f.higher = true ↔ f.c = false ∧ f.z = false := by simp [Ccr.higher]

theorem Ccr.not_higher_iff (f : Ccr) : (!f.higher) = true ↔ f.c = true ∨ f.z = true := by simp [Ccr.higher]

theorem Ccr.greaterEq_iff (f : Ccr) : f.greaterEq = true ↔ f.n = f.v := by simp [Ccr.greaterEq]

theorem Ccr.not_greaterEq_iff (f : Ccr) : (!f.greaterEq) = true ↔ f.n ≠ f.v := by simp [Ccr.greaterEq]

theorem Ccr.greater_iff (f : Ccr) : f.greater = true ↔ f.z = false ∧ f.n = f.v := by simp [Ccr.greater]

theorem Ccr.not_greater_iff (f : Ccr) : (!f.greater) = true ↔ f.z = true ∨ f.n ≠ f.v := by simp [Ccr.greater]

/-- Settles O28: each branch by the flag it tests, set or clear, or by what its combination of flags says. -/
theorem branchesFollowTheirConditions : Obligations.BranchesFollowTheirConditions := by
  refine ⟨?bcc, ?bcs, ?bhcc, ?bhcs, ?bhi, ?bhs, ?blo, ?bls, ?bpl, ?bmi, ?beq, ?bne, ?bge, ?bgt, ?ble, ?blt, ?bih,
    ?bil, ?bmc, ?bms, ?bra, ?brn⟩
  case bcs | bhcs | blo | bmi | beq | bih | bms => exact branchesWhen_set fun _ _ => rfl
  case bcc | bhcc | bhs | bpl | bne | bil | bmc => exact branchesWhen_clear fun _ _ => rfl
  case bhi => exact branchesWhen_of_iff (fun _ _ => rfl) fun s => s.ccr.higher_iff
  case bls => exact branchesWhen_of_iff (fun _ _ => rfl) fun s => s.ccr.not_higher_iff
  case bge => exact branchesWhen_of_iff (fun _ _ => rfl) fun s => s.ccr.greaterEq_iff
  case blt => exact branchesWhen_of_iff (fun _ _ => rfl) fun s => s.ccr.not_greaterEq_iff
  case bgt => exact branchesWhen_of_iff (fun _ _ => rfl) fun s => s.ccr.greater_iff
  case ble => exact branchesWhen_of_iff (fun _ _ => rfl) fun s => s.ccr.not_greater_iff
  case bra => exact branchesWhen_of_iff (cond := fun _ => true) (fun _ _ => rfl) fun _ => iff_of_true rfl trivial
  case brn => exact branchesWhen_of_iff (cond := fun _ => false) (fun _ _ => rfl) fun _ => iff_of_false nofun id

/-! ## Bit branches (R263, R264) -/

/-- C takes the tested bit on both outcomes; the read leaves PC at PCnext. -/
theorem branchBit_of_answers {want : Bool} {n : BitNum} {dd rr : Byte} {s : State}
    (h : s.answers (directAddr dd) = true) :
    branchBit want n dd rr s = .next { s.afterRead (directAddr dd) with
      ccr := { s.ccr with c := (s.byteAt (directAddr dd)).toNat.testBit n.toNat }
      pc := if (s.byteAt (directAddr dd)).toNat.testBit n.toNat = want then
        BitVec.ofInt 16 (s.pc.toNat + rr.toInt) else s.pc } := by
  rw [branchBit_next.mpr ⟨h, rfl⟩, State.branchIf_eq, State.setCcr_pc, State.afterRead_pc]
  simp only [beq_iff_eq, BitVec.testBit_toNat]
  rfl

/-- Settles O30: BRSET branches on a bit that is 1; for BRCLR the two outcomes change places. -/
theorem bitBranchesTestOneBit : Obligations.BitBranchesTestOneBit := by
  refine fun n dd rr s h => ⟨?brclr, ?brset⟩
  case brclr => rw [exec_brclr, branchBit_of_answers h]; simp only [← Bool.not_eq_true, ite_not]
  case brset => rw [exec_brset, branchBit_of_answers h]

/-! ## Decrement and branch (R266) -/

theorem byte_sub_one_eq (b : Byte) : b - 1 = BitVec.ofNat 8 (b.toNat + 255) := by bv_omega

/-- One less than a byte is not zero unless the byte is one, so the branch is taken on every other byte. -/
theorem State.branchIf_sub_one (s : State) (b rr : Byte) :
    s.branchIf (b - 1 != 0) rr =
      { s with pc := if b.toNat = 1 then s.pc else BitVec.ofInt 16 (s.pc.toNat + rr.toInt) } := by
  have hzero : (b - 1 != 0) = true ↔ ¬ b.toNat = 1 := by
    rw [bne_iff_ne, ne_eq, sub_eq_zero, ← BitVec.toNat_inj]; rfl
  simp only [State.branchIf_eq, hzero, ite_not]

theorem exec_dbnz_of_answers {m : RmwMode} {rr : Byte} {s : State} (h : s.answers (ea (rmwMem m) s) = true) :
    exec (.dbnz m rr) s = .next (((s.afterRead (ea (rmwMem m) s)).afterWrite (ea (rmwMem m) s)
      (s.byteAt (ea (rmwMem m) s) - 1)).branchIf (s.byteAt (ea (rmwMem m) s) - 1 != 0) rr) := by
  refine answer_next.mpr ?_
  simp only [bind_ok, readByte_ok, writeByte_ok, pure_ok]
  exact ⟨_, ⟨h, rfl⟩, _, ⟨by simpa using h, rfl⟩, rfl⟩

/-- Settles O32: the byte one lower, in memory, A and X, and the branch that its not being zero decides. -/
theorem decrementAndBranchIfNotZero : Obligations.DecrementAndBranchIfNotZero := by
  refine ⟨fun m rr s h => ?dbnz, fun rr s => ⟨?dbnza, ?dbnzx⟩⟩
  case dbnz => rw [exec_dbnz_of_answers h, State.branchIf_sub_one, ← byte_sub_one_eq]; simp
  case dbnza => rw [← byte_sub_one_eq]; exact congrArg _ ((s.setA (s.a - 1)).branchIf_sub_one s.a rr)
  case dbnzx => rw [← byte_sub_one_eq]; exact congrArg _ ((s.setX (s.x - 1)).branchIf_sub_one s.x rr)

/-! ## Jumps, calls and returns (R267 to R270) -/

theorem State.setSp_afterWrite (s : State) (v a : Addr) (b : Byte) :
    (s.setSp v).afterWrite a b = (s.afterWrite a b).setSp v := by
  unfold State.afterWrite
  rw [State.kindAt_congr (show (s.setSp v).platform = s.platform from rfl)]
  split <;> rfl

/-- Two pushes store at SP and at the address below it. -/
theorem State.pushed_pushed (s : State) (v w : Byte) :
    (s.pushed v).pushed w = ((s.afterWrite s.sp v).afterWrite (s.sp - 1) w).setSp (s.sp - 2) := by
  rw [← sub_one_sub_one]
  simp only [State.pushed, State.setSp_sp, State.setSp_afterWrite]
  rfl

/-- Two pulls read the two addresses above SP, the lower one first. -/
theorem State.pulled_pulled (s : State) :
    s.pulled.pulled = ((s.afterRead (s.sp + 1)).afterRead (s.sp + 2)).setSp (s.sp + 2) := by
  rw [← add_one_add_one]
  simp only [State.pulled, State.setSp_sp, State.setSp_afterRead]
  rfl

theorem State.pulled_top (s : State) : s.pulled.top = (s.afterRead (s.sp + 1)).byteAt (s.sp + 2) := by
  rw [State.top, State.pulled_sp, add_one_add_one, State.pulled, State.setSp_byteAt]

theorem pullAddrs_two (sp : Addr) : pullAddrs sp 2 = [sp + 1, sp + 1 + 1] := by
  simp [pullAddrs, List.range, List.range.loop]

/-- A call to a target formed before the pushes: what JSR and BSR share (R268, R269). -/
theorem call_of_answers {s : State} (h : s.allAnswer (pushAddrs s.sp 2)) (target : Addr) :
    (answer do
      let s ← pushAddr s.pc s
      return s.setPc target) =
      .next { (s.afterWrite s.sp (BitVec.ofNat 8 s.pc.toNat)).afterWrite (s.sp - 1)
        (BitVec.ofNat 8 (s.pc.toNat / 256)) with sp := s.sp - 2, pc := target } := by
  simp only [pushAddrs_two, List.forall_mem_cons] at h
  obtain ⟨hlow, hhigh, -⟩ := h
  simp only [answer_next, bind_ok, pushAddr_ok, pure_ok]
  refine ⟨_, ⟨hlow, hhigh, rfl⟩, ?_⟩
  rw [State.pushed_pushed, loByte_eq, hiByte_eq]
  rfl

theorem exec_rts_of_answers {s : State} (h : s.allAnswer (pullAddrs s.sp 2)) :
    exec .rts s = .next (s.pulled.pulled.setPc (word s.top s.pulled.top)) := by
  simp only [pullAddrs_two, List.forall_mem_cons] at h
  obtain ⟨hhigh, hlow, -⟩ := h
  refine answer_next.mpr ?_
  simp only [bind_ok, pullAddr_ok, pure_ok]
  exact ⟨_, ⟨hhigh, hlow, rfl⟩, rfl⟩

/-- Settles O33: JMP is its one assignment; the calls by two pushes, RTS by two pulls. -/
theorem jumpsCallsAndReturns : Obligations.JumpsCallsAndReturns := by
  refine ⟨fun _ _ => rfl, fun s h => ⟨fun m => ?jsr, fun rr => ?bsr⟩, fun s h => ?rts⟩
  case jsr => exact call_of_answers h _
  case bsr => rw [← State.rel_eq]; exact call_of_answers h _
  case rts => rw [exec_rts_of_answers h, State.pulled_pulled, State.pulled_top, word_eq]; rfl

/-- A call on RAM: the return address lies below SP, its high byte at the lower address. -/
theorem exec_jsr_ram {m : JumpMode} {s : State} (h1 : s.isRam s.sp) (h2 : s.isRam (s.sp - 1)) :
    exec (.jsr m) s = .next { s with
      mem := Memory.write (Memory.write s.mem s.sp.toNat (loByte s.pc)) (s.sp - 1).toNat (hiByte s.pc)
      sp := s.sp - 2, stale := s.staleOutside (pushAddrs s.sp 2), pc := ea (jumpMem m) s } := by
  refine answer_next.mpr ?_
  simp only [bind_ok, pure_ok]
  exact ⟨_, pushAddr_ram h1 h2 s.pc, rfl⟩

/-- A return whose two bytes lie in memory. -/
theorem exec_rts_memory {s : State} (h1 : s.isMemory (s.sp + 1)) (h2 : s.isMemory (s.sp + 2)) :
    exec .rts s = .next { s with
      sp := s.sp + 2
      pc := word (Memory.read s.mem (s.sp + 1).toNat) (Memory.read s.mem (s.sp + 2).toNat) } := by
  refine answer_next.mpr ?_
  simp only [bind_ok, pure_ok]
  exact ⟨_, pullAddr_memory h1 h2, rfl⟩

/-- A word stored low byte first, the high byte one address lower, is read back whole. -/
theorem word_read_write (m : Memory) (a w : Addr) :
    word (((m.write a.toNat (loByte w)).write (a - 1).toNat (hiByte w)).read (a - 1).toNat)
      (((m.write a.toNat (loByte w)).write (a - 1).toNat (hiByte w)).read a.toNat) = w := by
  have hne : a.toNat ≠ (a - 1).toNat := by bv_omega
  rw [Memory.read_write_same, Memory.read_write_other _ _ hne, Memory.read_write_same, word_hiByte_loByte]

/-- Settles O34: the return pulls the two bytes that the call pushed. -/
theorem callThenReturnComesBack : Obligations.CallThenReturnComesBack := by
  intro m s h1 h2
  have hhigh : s.sp - 2 + 1 = s.sp - 1 := by bv_omega
  have hlow : s.sp - 2 + 2 = s.sp := sub_add_cancel _ _
  refine ⟨_, _, exec_jsr_ram h1 h2, rfl, exec_rts_memory (.inl ?high) (.inl ?low), ?back⟩
  case high => exact hhigh.symm ▸ h2
  case low => exact hlow.symm ▸ h1
  case back => simp only [hhigh, hlow, word_read_write]

/-! ## SWI and RTI (R271, R272) -/

/-- Taking an exception on a stack in RAM through a vector in memory (R302). -/
theorem trapEntry_ram {vector ret : Addr} {s : State} (hstack : ∀ a ∈ pushAddrs s.sp 5, s.isRam a)
    (h1 : s.isMemory vector) (h2 : s.isMemory (vector + 1)) :
    trapEntry vector ret s = .ok { s with
      mem := frameMemory ret s, sp := s.sp - 5, mode := .running, ccr := { s.ccr with i := true }
      pc := word ((frameMemory ret s).read vector.toNat) ((frameMemory ret s).read (vector + 1).toNat)
      stale := s.staleOutside (pushAddrs s.sp 5) } :=
  trapEntry_ok.mpr ⟨_, pushFrame_ram hstack ret, jumpVector_memory h1 h2⟩

/-- Settles O35: SWI is exception entry through $FFFC with PCnext as its return address. -/
theorem swiTakesTheException : Obligations.SwiTakesTheException := by
  intro s hstack h1 h2
  rw [← word_eq]
  exact answer_next.mpr (trapEntry_ram hstack h1 h2)

theorem Ccr.ofByte_eq (b : Byte) :
    Ccr.ofByte b = { v := b.toNat.testBit 7, hc := b.toNat.testBit 4, i := b.toNat.testBit 3
                     n := b.toNat.testBit 2, z := b.toNat.testBit 1, c := b.toNat.testBit 0 } := rfl

theorem exec_rti_of_answers {s : State} (h : s.allAnswer (pullAddrs s.sp 5)) :
    exec .rti s = .next ((((s.pulled.pulled.pulled.pulled.pulled.setCcr (.ofByte s.top)).setA s.pulled.top).setX
      s.pulled.pulled.top).setPc (word s.pulled.pulled.pulled.top s.pulled.pulled.pulled.pulled.top)) := by
  simp only [pullAddrs_five, List.forall_mem_cons] at h
  obtain ⟨h1, h2, h3, h4, h5, -⟩ := h
  exact answer_next.mpr (returnFromTrap_ok.mpr ⟨h1, h2, h3, h4, h5, rfl⟩)

/-- Settles O36: the five pulls of the return from an exception, the flags as bits of the first byte. -/
theorem rtiPullsTheFrame : Obligations.RtiPullsTheFrame := by
  intro s h
  rw [exec_rti_of_answers h, Ccr.ofByte_eq, word_eq, State.setPc, State.setX, State.setA, State.setCcr]

end Sys2Proof.Machine
end

section
/-! PROOFS for 45_bcd_special.md: DAA from the rows of its table (R290), the row that a decimal sum meets after ADC,
then NSA, RSP and NOP (R291 to R293) and STOP and WAIT (R294, R295). -/

namespace Sys2Proof.Machine

/-! ## DAA by its table (R290) -/

/-- Row by row: no row above a matching one matches too, so `daaRow` gives the matching one. -/
theorem daaRow_of_matches {s : State} {row : Bool × (Nat × Nat) × Bool × (Nat × Nat) × Nat × Bool}
    (hrow : row ∈ daaTable) (h : daaMatches row s) :
    daaRow s.ccr.c s.ccr.hc (s.a.toNat / 16) (s.a.toNat % 16) =
      some (BitVec.ofNat 8 row.2.2.2.2.1, row.2.2.2.2.2) := by
  obtain ⟨hc, hhi, hhi', hhc, hlo, hlo'⟩ := h
  rw [hc, hhc]
  fin_cases hrow
  all_goals
    simp only [daaRow]
    grind

/-- A branch of `daaRow` that is met is a matching row: the bounds it leaves out are those of every digit. -/
theorem daaRow_of_no_match {s : State} (h : ∀ row ∈ daaTable, ¬ daaMatches row s) :
    daaRow s.ccr.c s.ccr.hc (s.a.toNat / 16) (s.a.toNat % 16) = none := by
  have hhi : s.a.toNat / 16 ≤ 15 := by have := s.a.isLt; omega
  have hlo : s.a.toNat % 16 ≤ 15 := by omega
  simp only [daaTable, daaMatches, List.forall_mem_cons] at h
  simp only [daaRow]
  grind

/-- Settles O38: the row that `daaRow` gives is the matching row of the table, and it gives none where none matches. -/
theorem daaFollowsItsTable : Obligations.DaaFollowsItsTable := by
  intro s
  have hexec : exec .daa s = execDaa s := rfl
  refine ⟨fun row hrow hmatch => ?onRow, fun hnone => ?onNoRow⟩
  case onRow =>
    have hsum : s.a + BitVec.ofNat 8 row.2.2.2.2.1 = BitVec.ofNat 8 (s.a.toNat + row.2.2.2.2.1) := by
      rw [BitVec.ofNat_add, BitVec.ofNat_toNat, BitVec.setWidth_eq]
    simp only [hexec, execDaa, daaRow_of_matches hrow hmatch, hsum, Ccr.nz8_eq, BitVec.toNat_ofNat]
    rfl
  case onNoRow =>
    simp only [hexec, execDaa, daaRow_of_no_match hnone, State.drawn, State.setDraws, State.setA, State.setCcr,
      State.freeBit, State.freeByte]

/-! ## DAA after ADC (R290, R161) -/

theorem packedBcd_toNat {n : Nat} (h : n < 100) : (packedBcd n).toNat = n / 10 * 16 + n % 10 := by
  rw [packedBcd, BitVec.toNat_ofNat]
  omega

/-- ADC of two packed-BCD bytes adds the tens and the units, each with weight 16 and 1; HC and C are their carries. -/
theorem exec_adc_packedBcd {p q : Nat} {s t : State} (hp : p < 100) (hq : q < 100) (ha : s.a = packedBcd p)
    (h : exec (.adc (.imm (packedBcd q))) s = .next t) :
    t.a.toNat = (16 * (p / 10 + q / 10) + (p % 10 + q % 10 + bitValue s.ccr.c)) % 256 ∧
    t.ccr.c = decide (256 ≤ 16 * (p / 10 + q / 10) + (p % 10 + q % 10 + bitValue s.ccr.c)) ∧
    t.ccr.hc = decide (16 ≤ p % 10 + q % 10 + bitValue s.ccr.c) := by
  obtain ⟨-, hadc⟩ := additionsSumAndSetFlags (.imm (packedBcd q)) s trivial
  obtain rfl := next_inj (hadc.symm.trans h)
  have hunits (n : Nat) : (n / 10 * 16 + n % 10) % 16 = n % 10 := by omega
  have hsum : p / 10 * 16 + p % 10 + (q / 10 * 16 + q % 10) + bitValue s.ccr.c =
      16 * (p / 10 + q / 10) + (p % 10 + q % 10 + bitValue s.ccr.c) := by omega
  simp only [srcValue, ha, flagsOfSum, packedBcd_toNat hp, packedBcd_toNat hq, BitVec.toNat_ofNat, hunits, hsum,
    and_self]

/-- The table covers what an ADC of packed-BCD bytes leaves, and its corrections make the sum decimal: three ranges
of the sum (below 100, still a byte, beyond a byte) by three of the units (a digit, a digit above 9, a half carry) are
the nine rows in their order. -/
theorem daaTable_covers_decimal_sum {s : State} {tens units : Nat} (htens : tens ≤ 18) (hunits : units ≤ 19)
    (ha : s.a.toNat = (16 * tens + units) % 256) (hc : s.ccr.c = decide (256 ≤ 16 * tens + units))
    (hhc : s.ccr.hc = decide (16 ≤ units)) :
    ∃ row ∈ daaTable, daaMatches row s ∧
      (s.a.toNat + row.2.2.2.2.1) % 256 = (10 * tens + units) % 100 / 10 * 16 + (10 * tens + units) % 100 % 10 ∧
      row.2.2.2.2.2 = decide (100 ≤ 10 * tens + units) := by
  have hsums : 10 * tens + units < 100 ∨ (100 ≤ 10 * tens + units ∧ 16 * tens + units < 256) ∨
    256 ≤ 16 * tens + units := by omega
  have hranges : units ≤ 9 ∨ (10 ≤ units ∧ units ≤ 15) ∨ 16 ≤ units := by omega
  rcases hsums with hsum | hsum | hsum <;> rcases hranges with hlow | hlow | hlow
  map_tacs [refine ⟨daaTable[0], List.getElem_mem _, ?_⟩; refine ⟨daaTable[1], List.getElem_mem _, ?_⟩;
    refine ⟨daaTable[2], List.getElem_mem _, ?_⟩; refine ⟨daaTable[3], List.getElem_mem _, ?_⟩;
    refine ⟨daaTable[4], List.getElem_mem _, ?_⟩; refine ⟨daaTable[5], List.getElem_mem _, ?_⟩;
    refine ⟨daaTable[6], List.getElem_mem _, ?_⟩; refine ⟨daaTable[7], List.getElem_mem _, ?_⟩;
    refine ⟨daaTable[8], List.getElem_mem _, ?_⟩]
  all_goals
    simp only [daaTable, List.getElem_cons_succ, List.getElem_cons_zero]
    grind

theorem bitValue_le_one (b : Bool) : bitValue b ≤ 1 := by cases b <;> decide

/-- Settles O39: what ADC leaves is on a row of the table, and DAA follows that row. -/
theorem daaAfterAdcAddsDecimally : Obligations.DaaAfterAdcAddsDecimally := by
  intro p q s t u hp hq hpacked hadc hdaa
  have hcarry := bitValue_le_one s.ccr.c
  have htens : p / 10 + q / 10 ≤ 18 := by omega
  have hunits : p % 10 + q % 10 + bitValue s.ccr.c ≤ 19 := by omega
  have hsum : 10 * (p / 10 + q / 10) + (p % 10 + q % 10 + bitValue s.ccr.c) = p + q + bitValue s.ccr.c := by omega
  obtain ⟨ha, hc, hhc⟩ := exec_adc_packedBcd hp hq hpacked hadc
  obtain ⟨row, hrow, hmatch, hdigits, hdecimal⟩ := daaTable_covers_decimal_sum htens hunits ha hc hhc
  obtain rfl := next_inj (((daaFollowsItsTable t).1 row hrow hmatch).symm.trans hdaa)
  rw [hsum] at hdigits hdecimal
  refine ⟨BitVec.eq_of_toNat_eq ?_, hdecimal⟩
  rw [packedBcd_toNat (Nat.mod_lt _ (by decide)), BitVec.toNat_ofNat, hdigits]

/-! ## NSA, RSP and NOP (R291 to R293) -/

/-- The digits of a byte exchanged, as a number. -/
theorem nibbleSwap_toNat (b : Byte) :
    (b.extractLsb' 0 4 ++ b.extractLsb' 4 4).toNat = b.toNat % 16 * 16 + b.toNat / 16 := by
  have hhigh : (b.extractLsb' 4 4).toNat = b.toNat / 16 := by
    have := b.isLt
    simp [Nat.shiftRight_eq_div_pow]; omega
  have hlow : (b.extractLsb' 0 4).toNat = b.toNat % 16 := by simp
  rw [BitVec.toNat_append, ← Nat.shiftLeft_add_eq_or_of_lt (b.extractLsb' 4 4).isLt, Nat.shiftLeft_eq, hhigh, hlow]

/-- Settles O40: the new A and the new SP as numbers; NOP is its state. -/
theorem nsaRspNop : Obligations.NsaRspNop := by
  refine fun s => ⟨?nsa, ?rsp, rfl⟩
  case nsa => rw [← nibbleSwap_toNat, BitVec.ofNat_toNat, BitVec.setWidth_eq]; rfl
  case rsp =>
    have hsp : word (hiByte s.sp) 0xFF = BitVec.ofNat 16 (s.sp.toNat / 256 * 256 + 255) := by
      rw [word_eq, hiByte_toNat]
      rfl
    rw [← hsp]
    rfl

/-! ## STOP and WAIT (R294, R295) -/

/-- Settles O41: WAIT is its two assignments; STOP is decided by the platform. -/
theorem waitAndStopEnterTheirModes : Obligations.WaitAndStopEnterTheirModes := by
  intro s
  have hstop : exec .stop s = execStop s := rfl
  refine ⟨rfl, fun h => ?enabled, fun h => ?disabled⟩
  case enabled => rw [hstop, execStop, if_pos h]; rfl
  case disabled => rw [hstop, execStop, if_neg (Bool.not_eq_true _ ▸ h)]; rfl

end Sys2Proof.Machine
end

section
/-! PROOFS for 60_exceptions.md: what an instruction can answer, faults included (R300, R301), exception entry and
return (R302, R307), interrupt recognition (R303, R305), the power states (R316), and the step with its invariant
(R317). -/

namespace Sys2Proof.Machine

/-! ## What an access sequence can answer -/

/-- The memories that byte stores to the state's RAM make of its own. -/
inductive RamStores (s : State) : Memory → Prop where
  | none : RamStores s s.mem
  | store {m : Memory} (hm : RamStores s m) {a : Addr} (ha : s.isRam a) (v : Byte) :
      RamStores s (m.write a.toNat v)

namespace RamStores

variable {s : State} {m : Memory}

theorem wf (h : RamStores s m) (hs : s.mem.wf) : m.wf := by
  induction h with
  | none => exact hs
  | store _ _ v ih => exact Memory.write_wf _ v ih

theorem read_of_not_ram (h : RamStores s m) {b : Addr} (hb : ¬ s.isRam b) : m.read b.toNat = s.mem.read b.toNat := by
  induction h with
  | none => rfl
  | store _ ha v ih =>
    have hne : b.toNat ≠ _ := fun hab => hb (BitVec.eq_of_toNat_eq hab ▸ ha)
    rw [Memory.read_write_other _ v hne, ih]

end RamStores

/-- The second state is on the platform of the first, and its memory differs by stores to RAM only (R61). -/
structure ByStores (s t : State) : Prop where
  platform : t.platform = s.platform
  mem : RamStores s t.mem

namespace ByStores

variable {s t u : State}

theorem refl (s : State) : ByStores s s := ⟨rfl, .none⟩

/-- Only platform and memory of the later state matter. -/
theorem congr (h : ByStores s t) (hp : u.platform = t.platform) (hm : u.mem = t.mem) : ByStores s u :=
  ⟨hp.trans h.platform, hm ▸ h.mem⟩

theorem afterRead (h : ByStores s t) (a : Addr) : ByStores s (t.afterRead a) := h.congr (by simp) (by simp)

theorem afterWrite (h : ByStores s t) (a : Addr) (v : Byte) : ByStores s (t.afterWrite a v) := by
  refine ⟨by simpa using h.platform, ?_⟩
  by_cases ha : t.isRam a
  · rw [(State.isRam_write ha v).2]
    exact h.mem.store (by rwa [State.isRam, ← State.kindAt_congr h.platform]) v
  · have hsame : (t.afterWrite a v).mem = t.mem := by
      unfold State.afterWrite
      split
      · exact absurd ‹_› ha
      all_goals rfl
    exact hsame ▸ h.mem

end ByStores

/-- The fault of an access where nothing stands, on a platform that faults there (R61, R301). -/
def AddressFault (s : State) (f : Fault) : Prop :=
  ∃ a u, f = .illegalAddress a u ∧ s.kindAt a = .unimplemented ∧ s.platform.illegalAddress = .fault

/-- The access sequence, begun in the state `s`, faults at an address where nothing stands, or has only stored to RAM
by the state it ends in. -/
def AccessFrom {α : Type} (s : State) (final : α → State) : Access α → Prop
  | .ok v => ByStores s (final v)
  | .error f => AddressFault s f

theorem State.answers_eq_false {s : State} {a : Addr} (h : s.answers a = false) :
    s.kindAt a = .unimplemented ∧ s.platform.illegalAddress = .fault := by
  unfold State.answers at h
  split at h
  · exact ⟨‹_›, ‹_›⟩
  · cases h

section Accesses

variable {α β : Type} {s t : State}

theorem AccessFrom.bind {final : α → State} {final' : β → State} {r : Access α} {k : α → Access β}
    (hr : AccessFrom s final r) (hk : ∀ v, ByStores s (final v) → AccessFrom s final' (k v)) :
    AccessFrom s final' (r >>= k) := by
  cases r with
  | ok v => exact hk v hr
  | error f => exact hr

theorem addressFault_of_not_answers {a : Addr} (h : ByStores s t) (ha : t.answers a = false) :
    AddressFault s (.illegalAddress a t) := by
  obtain ⟨hkind, hplatform⟩ := State.answers_eq_false (State.answers_congr h.platform a ▸ ha)
  exact ⟨a, t, rfl, hkind, hplatform⟩

theorem readByte_from (h : ByStores s t) (a : Addr) : AccessFrom s Prod.snd (readByte a t) := by
  unfold readByte
  split
  · exact h.afterRead a
  · exact addressFault_of_not_answers h (Bool.not_eq_true _ ▸ ‹_›)

theorem writeByte_from (h : ByStores s t) (a : Addr) (v : Byte) : AccessFrom s id (writeByte a v t) := by
  unfold writeByte
  split
  · exact h.afterWrite a v
  · exact addressFault_of_not_answers h (Bool.not_eq_true _ ▸ ‹_›)

theorem readWord_from (h : ByStores s t) (a : Addr) : AccessFrom s Prod.snd (readWord a t) :=
  (readByte_from h a).bind fun _ h => (readByte_from h (a + 1)).bind fun _ h => h

theorem writeWord_from (h : ByStores s t) (a v : Addr) : AccessFrom s id (writeWord a v t) :=
  (writeByte_from h a _).bind fun _ h => writeByte_from h (a + 1) _

theorem push8_from (h : ByStores s t) (v : Byte) : AccessFrom s id (push8 v t) :=
  (writeByte_from h t.sp v).bind fun _ h => h.congr rfl rfl

theorem pull8_from (h : ByStores s t) : AccessFrom s Prod.snd (pull8 t) :=
  readByte_from (t := t.setSp (t.sp + 1)) (h.congr rfl rfl) _

theorem pushAddr_from (h : ByStores s t) (ret : Addr) : AccessFrom s id (pushAddr ret t) :=
  (push8_from h _).bind fun _ h => push8_from h _

theorem pullAddr_from (h : ByStores s t) : AccessFrom s Prod.snd (pullAddr t) :=
  (pull8_from h).bind fun _ h => (pull8_from h).bind fun _ h => h

theorem pushFrame_from (h : ByStores s t) (ret : Addr) : AccessFrom s id (pushFrame ret t) :=
  (pushAddr_from h ret).bind fun _ h => (push8_from h _).bind fun _ h => (push8_from h _).bind fun _ h =>
    push8_from h _

theorem jumpVector_from (h : ByStores s t) (vector : Addr) : AccessFrom s id (jumpVector vector t) :=
  (readWord_from h vector).bind fun _ h => h.congr rfl rfl

theorem trapEntry_from (h : ByStores s t) (vector ret : Addr) : AccessFrom s id (trapEntry vector ret t) :=
  (pushFrame_from h ret).bind fun u h =>
    jumpVector_from (t := (u.setI true).setMode .running) (h.congr rfl rfl) vector

theorem returnFromTrap_from (h : ByStores s t) : AccessFrom s id (returnFromTrap t) :=
  (pull8_from h).bind fun (c, u) h => (pull8_from (t := u.setCcr (.ofByte c)) (h.congr rfl rfl)).bind fun (a, u) h =>
    (pull8_from (t := u.setA a) (h.congr rfl rfl)).bind fun (x, u) h =>
      (pullAddr_from (t := u.setX x) (h.congr rfl rfl)).bind fun (pc, u) h => h.congr (u := u.setPc pc) rfl rfl

theorem operand8_from (h : ByStores s t) (m : Src) : AccessFrom s Prod.snd (operand8 m t) := by
  cases m with
  | imm ii => exact h
  | mem m => exact readByte_from h (ea m t)

theorem operand16_from (h : ByStores s t) (m : Src16) : AccessFrom s Prod.snd (operand16 m t) := by
  cases m with
  | imm v => exact h
  | dir dd => exact readWord_from h (directAddr dd)

theorem clrRead_from (h : ByStores s t) (a : Addr) : AccessFrom s id (clrRead a t) := by
  unfold clrRead
  split
  · exact (readByte_from h a).bind fun _ h => h
  · exact h

end Accesses

/-! ## What an instruction can answer (R300, R301) -/

/-- The fault of a STOP that the platform disables, in the state before its fetch (R294, log 36). -/
def DisabledStop (i : Instr) (s : State) (f : Fault) : Prop :=
  i = .stop ∧ s.platform.stopEnabled = false ∧ f = .illegalOpcode (s.pc - 1) { s with pc := s.pc - 1 }

/-- The outcome of the instruction, run in the state `s`: one of the two named faults, or a next state that differs in
memory by stores to RAM only. -/
structure ResultFrom (i : Instr) (s : State) (r : Result) : Prop where
  next : ∀ t, r = .next t → ByStores s t
  fault : ∀ f, r = .fault f → AddressFault s f ∨ DisabledStop i s f
  refused : ∀ q, r ≠ .refused q

section Results

variable {i : Instr} {s : State}

theorem next_from {t : State} (h : ByStores s t) : ResultFrom i s (.next t) where
  next _ ht := next_inj ht ▸ h
  fault _ hf := nomatch hf
  refused _ hq := nomatch hq

theorem fault_from {f : Fault} (h : AddressFault s f ∨ DisabledStop i s f) : ResultFrom i s (.fault f) where
  next _ ht := nomatch ht
  fault _ hf := by
    cases hf
    exact h
  refused _ hq := nomatch hq

theorem answer_from {r : Access State} (h : AccessFrom s id r) : ResultFrom i s (answer r) := by
  cases r with
  | ok t => exact next_from h
  | error f => exact fault_from (.inl h)

theorem accumulate_from (op : Byte → Byte → Ccr → Byte × Ccr) (m : Src) : ResultFrom i s (accumulate op m s) :=
  answer_from <| (operand8_from (.refl s) m).bind fun _ h => h.congr rfl rfl

theorem compare_from (op : Byte → Byte → Ccr → Byte × Ccr) (reg : State → Byte) (m : Src) :
    ResultFrom i s (compare op reg m s) :=
  answer_from <| (operand8_from (.refl s) m).bind fun _ h => h.congr rfl rfl

theorem store_from (v : Byte) (m : MemMode) : ResultFrom i s (store v m s) :=
  answer_from <| (writeByte_from (.refl s) _ v).bind fun _ h => h.congr rfl rfl

theorem modify_from (op : Byte → Ccr → Byte × Ccr) (m : RmwMode) : ResultFrom i s (modify op m s) :=
  answer_from <| (readByte_from (.refl s) _).bind fun _ h => (writeByte_from h _ _).bind fun _ h => h.congr rfl rfl

theorem modifyA_from (op : Byte → Ccr → Byte × Ccr) : ResultFrom i s (modifyA op s) :=
  next_from ((ByStores.refl s).congr rfl rfl)

theorem modifyX_from (op : Byte → Ccr → Byte × Ccr) : ResultFrom i s (modifyX op s) :=
  next_from ((ByStores.refl s).congr rfl rfl)

theorem modifyBit_from (op : Byte → Byte) (dd : Byte) : ResultFrom i s (modifyBit op dd s) :=
  answer_from <| (readByte_from (.refl s) _).bind fun _ h => writeByte_from h _ _

theorem branch_from {t : State} (h : ByStores s t) (cond : Bool) (rr : Byte) : ResultFrom i s (branch cond rr t) :=
  next_from (h.congr (by simp) (by simp))

theorem branchBit_from (want : Bool) (n : BitNum) (dd rr : Byte) : ResultFrom i s (branchBit want n dd rr s) :=
  answer_from <| (readByte_from (.refl s) _).bind fun _ h => h.congr (by simp) (by simp)

/-- A byte pulled into a register. -/
theorem pull8_set_from {set : State → Byte → State} (hset : ∀ t v, ByStores s t → ByStores s (set t v)) :
    ResultFrom i s (answer do let (v, s) ← pull8 s; return set s v) :=
  answer_from <| (pull8_from (.refl s)).bind fun _ h => hset _ _ h

theorem exec_mov_from (m : MovMode) : ResultFrom i s (exec (.mov m) s) := by
  cases m with
  | dd | dixPlus | ixPlusD =>
    exact answer_from <| (readByte_from (.refl s) _).bind fun _ h => (writeByte_from h _ _).bind fun _ h =>
      h.congr rfl rfl
  | imd => exact answer_from <| (writeByte_from (.refl s) _ _).bind fun _ h => h.congr rfl rfl

theorem exec_div_from : ResultFrom .div s (exec .div s) := by
  show ResultFrom .div s (execDiv s)
  unfold execDiv
  split <;> exact next_from ((ByStores.refl s).congr (by simp) (by simp))

theorem exec_daa_from : ResultFrom .daa s (exec .daa s) := by
  show ResultFrom .daa s (execDaa s)
  unfold execDaa
  split <;> exact next_from ((ByStores.refl s).congr (by simp) (by simp))

theorem exec_stop_from : ResultFrom .stop s (exec .stop s) := by
  obtain ⟨-, henabled, hdisabled⟩ := waitAndStopEnterTheirModes s
  cases hstop : s.platform.stopEnabled with
  | true => rw [henabled hstop]; exact next_from ((ByStores.refl s).congr rfl rfl)
  | false => rw [hdisabled hstop]; exact fault_from (.inr ⟨rfl, hstop, rfl⟩)

/-- R300, R301: no instruction is refused; each ends in one of the two named faults, or has stored to RAM only. -/
theorem exec_from (i : Instr) (s : State) : ResultFrom i s (exec i s) := by
  have hrefl := ByStores.refl s
  cases i
  case add | adc | sub | sbc | and | ora | eor =>
    simp only [exec_add, exec_adc, exec_sub, exec_sbc, exec_and, exec_ora, exec_eor]
    exact accumulate_from _ _
  case cmp | cpx | bit =>
    simp only [exec_cmp, exec_cpx, exec_bit]
    exact compare_from _ _ _
  case lda | ldx => exact answer_from <| (operand8_from hrefl _).bind fun _ h => h.congr rfl rfl
  case ldhx | cphx => exact answer_from <| (operand16_from hrefl _).bind fun _ h => h.congr rfl rfl
  case sta | stx =>
    simp only [exec_sta, exec_stx]
    exact store_from _ _
  case sthx => exact answer_from <| (writeWord_from hrefl _ _).bind fun _ h => h.congr rfl rfl
  case mov => exact exec_mov_from _
  case inc | dec | com | neg | lsl | asl | asr | lsr | rol | ror =>
    simp only [exec_inc, exec_dec, exec_com, exec_neg, exec_lsl, exec_asl, exec_asr, exec_lsr, exec_rol, exec_ror]
    exact modify_from _ _
  case inca | deca | coma | nega | lsla | asla | asra | lsra | rola | rora =>
    simp only [exec_inca, exec_deca, exec_coma, exec_nega, exec_lsla, exec_asla, exec_asra, exec_lsra, exec_rola,
      exec_rora]
    exact modifyA_from _
  case incx | decx | comx | negx | lslx | aslx | asrx | lsrx | rolx | rorx =>
    simp only [exec_incx, exec_decx, exec_comx, exec_negx, exec_lslx, exec_aslx, exec_asrx, exec_lsrx, exec_rolx,
      exec_rorx]
    exact modifyX_from _
  case clr =>
    exact answer_from <| (clrRead_from hrefl _).bind fun _ h => (writeByte_from h _ _).bind fun _ h => h.congr rfl rfl
  case tst => exact answer_from <| (readByte_from hrefl _).bind fun _ h => h.congr rfl rfl
  case bclr | bset =>
    simp only [exec_bclr, exec_bset]
    exact modifyBit_from _ _
  -- control transfers
  case bcc | bcs | bhcc | bhcs | bhi | bhs | blo | bls | bpl | bmi | beq | bne | bge | bgt | ble | blt |
      bih | bil | bmc | bms | bra | brn | cbeqa | cbeqx => exact branch_from hrefl _ _
  case dbnza => exact branch_from (t := s.setA (s.a - 1)) (hrefl.congr rfl rfl) _ _
  case dbnzx => exact branch_from (t := s.setX (s.x - 1)) (hrefl.congr rfl rfl) _ _
  case brclr | brset =>
    simp only [exec_brclr, exec_brset]
    exact branchBit_from _ _ _ _
  case cbeq => exact answer_from <| (readByte_from hrefl _).bind fun _ h => h.congr (by simp) (by simp)
  case dbnz =>
    exact answer_from <| (readByte_from hrefl _).bind fun _ h => (writeByte_from h _ _).bind fun _ h =>
      h.congr (by simp) (by simp)
  case jsr | bsr => exact answer_from <| (pushAddr_from hrefl _).bind fun _ h => h.congr rfl rfl
  case rts => exact answer_from <| (pullAddr_from hrefl).bind fun _ h => h.congr rfl rfl
  case swi => exact answer_from (trapEntry_from hrefl _ _)
  case rti => exact answer_from (returnFromTrap_from hrefl)
  -- the stack
  case psha | pshh | pshx => exact answer_from (push8_from hrefl _)
  case pula => exact pull8_set_from (set := State.setA) fun _ _ h => h.congr rfl rfl
  case pulh => exact pull8_set_from (set := State.setH) fun _ _ h => h.congr rfl rfl
  case pulx => exact pull8_set_from (set := State.setX) fun _ _ h => h.congr rfl rfl
  -- registers, flags and modes only
  case tap | tpa | tax | txa | txs | tsx | mul | clra | clrx | clrh | tsta | tstx | ais | aix | clc | sec |
      cli | sei | jmp | nsa | rsp | nop | wait => exact next_from (hrefl.congr rfl rfl)
  case div => exact exec_div_from
  case daa => exact exec_daa_from
  case stop => exact exec_stop_from

end Results

/-- Settles O46: the fault part of what an instruction can answer. -/
theorem onlyTheTwoNamedFaults : Obligations.OnlyTheTwoNamedFaults :=
  fun i s => ⟨(exec_from i s).refused, (exec_from i s).fault⟩

/-! ## Exception entry and return (R302, R307) -/

/-- Entry to an exception writes what SWI writes, whatever the vector and the return address. -/
theorem trapEntry_writesOnly {vector ret : Addr} {s t : State} (h : trapEntry vector ret s = .ok t) :
    WritesOnly .swi (pushAddrs s.sp 5) s t := by
  obtain ⟨w, rfl⟩ := trapEntry_next h
  have hframe := (((((Pushed.zero .swi s).succ rfl (loByte ret)).succ rfl (hiByte ret)).succ rfl s.x).succ
    rfl s.a).succ rfl s.ccr.toByte
  exact ((((hframe.writesOnly.setI rfl true).setMode rfl .running).afterRead _).afterRead _).setPc rfl w

theorem trapEntry_mode {vector ret : Addr} {s t : State} (h : trapEntry vector ret s = .ok t) :
    t.mode = .running := by
  obtain ⟨w, rfl⟩ := trapEntry_next h
  simp

/-- The frame from its top down: PCL, PCH, X, A (R302). The CCR below them is `frameMemory_read_ccr`. -/
theorem frameMemory_read (ret : Addr) (s : State) :
    (frameMemory ret s).read s.sp.toNat = loByte ret ∧ (frameMemory ret s).read (s.sp - 1).toNat = hiByte ret ∧
    (frameMemory ret s).read (s.sp - 2).toNat = s.x ∧ (frameMemory ret s).read (s.sp - 3).toNat = s.a := by
  simp only [frameMemory, Memory.read_write, BitVec.toNat_inj, sub_right_inj, sub_eq_self, eq_comm (a := s.sp)]
  simp

/-- RTI on the frame that an exception pushed gives back what was pushed (R307). -/
theorem exec_rti_of_frame {ret : Addr} {s t : State} (hstack : ∀ a ∈ pushAddrs s.sp 5, s.isRam a)
    (hplatform : t.platform = s.platform) (hsp : t.sp = s.sp - 5) (hmem : t.mem = frameMemory ret s) :
    exec .rti t = .next { t with ccr := s.ccr, a := s.a, x := s.x, sp := s.sp, pc := ret } := by
  have e1 : t.sp + 1 = s.sp - 4 := by rw [hsp]; bv_omega
  have e2 : t.sp + 2 = s.sp - 3 := by rw [hsp]; bv_omega
  have e3 : t.sp + 3 = s.sp - 2 := by rw [hsp]; bv_omega
  have e4 : t.sp + 4 = s.sp - 1 := by rw [hsp]; bv_omega
  have e5 : t.sp + 5 = s.sp := by rw [hsp]; bv_omega
  obtain ⟨hpcl, hpch, hx, ha⟩ := frameMemory_read ret s
  have hmemory : ∀ a ∈ pushAddrs s.sp 5, t.isMemory a := fun a h => .inl (State.kindAt_congr hplatform a ▸ hstack a h)
  simp only [pushAddrs_five, List.forall_mem_cons, ← e1, ← e2, ← e3, ← e4] at hmemory
  obtain ⟨h5, h4, h3, h2, h1, -⟩ := hmemory
  refine answer_next.mpr ((returnFromTrap_memory h1 h2 h3 h4 (e5 ▸ h5)).trans ?_)
  simp only [e1, e2, e3, e4, e5, hmem, frameMemory_read_ccr, ofByte_toByte, hpcl, hpch, hx, ha, word_hiByte_loByte]

/-- Settles O37: the entry's memory is the frame over the old one, and RTI gives the frame back. -/
theorem trapThenReturnRestores : Obligations.TrapThenReturnRestores := by
  intro vector ret s hstack hvector hvector'
  obtain ⟨t, htrap, hmem, hsp⟩ : ∃ t, trapEntry vector ret s = .ok t ∧ t.mem = frameMemory ret s ∧ t.sp = s.sp - 5 :=
    ⟨_, trapEntry_ok.mpr ⟨_, pushFrame_ram hstack ret, jumpVector_ok.mpr ⟨hvector, hvector', rfl⟩⟩, by simp, by simp⟩
  have hwrites := trapEntry_writesOnly htrap
  have hmask : t.ccr.i = true := by
    obtain ⟨w, rfl⟩ := trapEntry_next htrap
    simp [State.setI]
  exact ⟨t, _, htrap, hmask, hsp, exec_rti_of_frame hstack hwrites.platform hsp hmem, rfl, rfl, hwrites.h rfl, rfl, rfl,
    rfl, hwrites.mem⟩

/-! ## Interrupt recognition (R303, R305) -/

theorem outranks_iff {p q : Config.IntSource} :
    outranks p q = true ↔
      q.priority < p.priority ∨ (q.priority = p.priority ∧ q.vector.toNat ≤ p.vector.toNat) := by
  simp only [outranks, Bool.or_eq_true, Bool.and_eq_true, decide_eq_true_eq, beq_iff_eq, eq_comm (a := p.priority)]

theorem outranks_trans {p q r : Config.IntSource} (hpq : outranks p q = true) (hqr : outranks q r = true) :
    outranks p r = true := by
  rw [outranks_iff] at *
  omega

theorem outranks_of_not {p q : Config.IntSource} (h : ¬ outranks p q = true) : outranks q p = true := by
  rw [outranks_iff] at *
  omega

theorem outranks_refl (p : Config.IntSource) : outranks p p = true :=
  outranks_iff.mpr (.inr ⟨rfl, Nat.le_refl _⟩)

theorem highest_eq_none {ps : List Config.IntSource} (h : highest ps = none) : ps = [] := by
  cases ps with
  | nil => rfl
  | cons p ps =>
    unfold highest at h
    split at h
    · cases h
    · split at h <;> cases h

/-- The highest of a set is a member that every member is outranked by, itself included. -/
theorem highest_eq_some {ps : List Config.IntSource} {p : Config.IntSource} (h : highest ps = some p) :
    p ∈ ps ∧ ∀ q ∈ ps, outranks p q = true := by
  induction ps generalizing p with
  | nil => cases h
  | cons r ps ih =>
    unfold highest at h
    split at h
    case h_1 hnone =>
      obtain rfl := Option.some.inj h
      simp [highest_eq_none hnone, outranks_refl]
    case h_2 q hq =>
      obtain ⟨hmem, hall⟩ := ih hq
      split at h
      case isTrue hrank =>
        obtain rfl := Option.some.inj h
        exact ⟨List.mem_cons_self, List.forall_mem_cons.mpr
          ⟨outranks_refl r, fun a ha => outranks_trans hrank (hall a ha)⟩⟩
      case isFalse hrank =>
        obtain rfl := Option.some.inj h
        exact ⟨List.mem_cons_of_mem _ hmem, List.forall_mem_cons.mpr ⟨outranks_of_not hrank, hall⟩⟩

theorem State.mem_candidates {s : State} {p : Config.IntSource} :
    p ∈ s.candidates ↔ p ∈ s.pending ∧ p ∈ s.platform.intSources ∧ (s.mode = .stopped → p.wakesStop = true) := by
  simp [State.candidates, imp_iff_not_or]

theorem State.recognised_eq_some {s : State} {p : Config.IntSource} :
    s.recognised = some p ↔ s.ccr.i = false ∧ s.inhibitNext = false ∧ highest s.candidates = some p := by
  simp [State.recognised, and_assoc]

theorem State.recognised_of_masked {s : State} (h : s.ccr.i = true ∨ s.inhibitNext = true) : s.recognised = none := by
  simp [State.recognised, h]

theorem State.recognised_of_no_candidate {s : State} (h : s.candidates = []) : s.recognised = none := by
  simp [State.recognised, h, highest]

/-- Settles O53: what is recognised is the highest of the candidates. -/
theorem highestPrioritySourceIsTaken : Obligations.HighestPrioritySourceIsTaken := by
  intro s p h
  obtain ⟨hmask, hdelay, hhighest⟩ := State.recognised_eq_some.mp h
  obtain ⟨hcandidate, hall⟩ := highest_eq_some hhighest
  obtain ⟨hpending, hsource, hwakes⟩ := State.mem_candidates.mp hcandidate
  exact ⟨hmask, hdelay, hpending, hsource, hwakes, fun q hq => outranks_iff.mp (hall q hq)⟩

/-! ## The step without an interrupt (R303, R316) -/

theorem step_of_no_interrupt {s : State} (hreset : s.sampled.resetRequested = false)
    (hnone : s.sampled.recognised = none) : step s = proceed (s.sampled.setInhibitNext false) := by
  rw [step_of_no_reset hreset, hnone]

theorem proceed_idle {s : State} (h : s.mode ≠ .running) : proceed s = .next s := by
  unfold proceed
  split
  · exact absurd ‹_› h
  all_goals rfl

theorem fetchInstr_pending {s t : State} {i : Instr} (h : fetchInstr s = .ok (i, t)) : t.pending = s.pending := by
  obtain ⟨_, ⟨n, pc, -, rfl⟩, rfl⟩ := fetchInstr_fetched h
  rfl

/-- Without an interrupt the requests stay as sampled: neither a reset nor an instruction takes one away. -/
theorem step_pending_of_no_interrupt {s t : State} (hnone : s.sampled.recognised = none) (h : step s = .next t) :
    t.pending = s.sampled.pending := by
  rcases step_next h with ⟨-, hreset⟩ | ⟨-, p, hp, -⟩ | ⟨-, -, -, i, u, v, hfetch, hexec, rfl⟩ | ⟨-, -, -, rfl⟩
  · obtain ⟨-, -, rfl⟩ := jumpVector_ok.mp hreset
    simp
  · cases hnone.symm.trans hp
  · exact (exec_writesOnly hexec).pending.trans (fetchInstr_pending hfetch :)
  · rfl

/-- Settles O51: the mask or the delay lets nothing be recognised. -/
theorem maskAndCliDelayHoldInterrupts : Obligations.MaskAndCliDelayHoldInterrupts := by
  intro s hreset hmasked
  have hnone : s.sampled.recognised = none := State.recognised_of_masked (by simpa using hmasked)
  exact ⟨step_of_no_interrupt hreset hnone, fun t h => step_pending_of_no_interrupt hnone h⟩

/-- Settles O54: no request is a candidate, and a machine that does not run proceeds to the same state. -/
theorem idleModesHoldUntilARequest : Obligations.IdleModesHoldUntilARequest := by
  intro s hreset hidle
  have hcandidates : s.sampled.candidates = [] := by
    refine List.eq_nil_iff_forall_not_mem.mpr fun p hp => ?_
    obtain ⟨hpending, hsource, hwakes⟩ := State.mem_candidates.mp hp
    rw [State.sampled_platform] at hsource
    rw [State.sampled_mode] at hwakes
    rcases hidle with ⟨-, hforeign⟩ | ⟨hstopped, hasleep⟩
    · exact hforeign p hpending hsource
    · cases (hasleep p hpending hsource).symm.trans (hwakes hstopped)
  have hmode : (s.sampled.setInhibitNext false).mode ≠ .running := by
    rcases hidle with ⟨h, -⟩ | ⟨h, -⟩ <;> simp [h]
  rw [step_of_no_interrupt hreset (State.recognised_of_no_candidate hcandidates), proceed_idle hmode]
  rfl

/-! ## The step that takes an interrupt (R303) -/

theorem step_of_interrupt {s : State} {p : Config.IntSource} (hreset : s.sampled.resetRequested = false)
    (hp : s.sampled.recognised = some p) : step s = answer (takeInterrupt p (s.sampled.setInhibitNext false)) := by
  rw [step_of_no_reset hreset, hp]

theorem State.acknowledge_pending (s : State) (p : Config.IntSource) :
    (s.acknowledge p).pending = if p.selfClearing then s.pending.filter (· ≠ p) else s.pending := by
  unfold State.acknowledge
  split <;> rfl

/-- Settles O50: entry to the exception from the sampled state, its request acknowledged. -/
theorem interruptEntryStacksAndVectors : Obligations.InterruptEntryStacksAndVectors := by
  intro s p hreset hmask hdelay hhighest hstack hvector hvector'
  have hp : s.sampled.recognised = some p :=
    State.recognised_eq_some.mpr ⟨by simpa using hmask, by simpa using hdelay, hhighest⟩
  obtain ⟨w, hw⟩ : ∃ w, w = ((s.sampled.setInhibitNext false).acknowledge p).chargeFree := ⟨_, rfl⟩
  have hkind (a : Addr) : w.kindAt a = s.kindAt a := State.kindAt_congr (by simp [hw]) a
  have hsp : w.sp = s.sp := by simp [hw]
  have hentry : trapEntry p.vector s.pc w = .ok _ :=
    trapEntry_ram (fun a ha => by rw [State.isRam, hkind]; exact hstack a (hsp ▸ ha))
      (by rwa [State.isMemory, hkind]) (by rwa [State.isMemory, hkind])
  have hstep : step s = answer (trapEntry p.vector s.pc w) := by
    rw [step_of_interrupt hreset hp, takeInterrupt, hw]
    simp
  have hframe : frameMemory s.pc w = frameMemory s.pc s := by simp [frameMemory, hw]
  have hstale : w.staleOutside (pushAddrs w.sp 5) = s.staleOutside (pushAddrs s.sp 5) := by
    rw [hsp]
    exact State.staleOutside_congr (by simp [hw]) (by simp [hw]) _
  exact ⟨_, hstep.trans (answer_next.mpr hentry), hframe, by simp [hw], by simp [hw], rfl, by simp [hw], by simp [hw],
    by simp [hw], rfl, by simp [hw, State.acknowledge_pending], by simp [hw], by simp [hw], hstale⟩

/-! ## The step that runs an instruction (R82, R317) -/

/-- The `n` bytes from PC on are memory's and none of them is open (U8). -/
def State.Settled (s : State) (n : Nat) : Prop :=
  ∀ k < n, s.isMemory (s.pc + BitVec.ofNat 16 k) ∧ s.staleAt (s.pc + BitVec.ofNat 16 k) = none

theorem add_one_add_ofNat (a : Addr) (k : Nat) : a + 1 + BitVec.ofNat 16 k = a + BitVec.ofNat 16 (k + 1) := by
  rw [BitVec.add_assoc, Nat.add_comm, BitVec.ofNat_add]
  rfl

theorem State.Settled.tail {s : State} {n : Nat} (h : s.Settled (n + 1)) : (s.setPc (s.pc + 1)).Settled n := by
  intro k hk
  rw [State.setPc_pc, add_one_add_ofNat]
  exact h (k + 1) (Nat.succ_lt_succ hk)

/-- A settled byte is fetched as memory holds it. -/
theorem State.Settled.fetchByte {s : State} {n : Nat} (h : s.Settled (n + 1)) :
    fetchByte s = .ok (s.mem.read s.pc.toNat, s.setPc (s.pc + 1)) := by
  obtain ⟨hmemory, hstale⟩ := h 0 (Nat.succ_pos n)
  exact fetchByte_memory (by simpa using hmemory) (by simpa using hstale)

theorem fetchOperands_settled {sh : Shape} {s : State} {n : Nat} {i : Instr} (h : s.Settled n)
    (hfill : sh.fill (bytesAt s.mem s.pc n) = .ok (i, [])) :
    fetchOperands sh s = .ok (i, s.setPc (s.pc + BitVec.ofNat 16 n)) := by
  have hn : n = operandCount sh := by simpa using fill_length hfill
  subst hn
  cases sh with
  | zero j =>
    cases hfill
    simp [fetchOperands, operandCount, State.setPc]
  | one build =>
    cases hfill
    simp only [fetchOperands, h.fetchByte]
    rfl
  | two build =>
    cases hfill
    simp only [fetchOperands, h.fetchByte, bind, Except.bind, h.tail.fetchByte]
    simp [pure, Except.pure, operandCount, State.setPc, BitVec.add_assoc]

theorem ne_prefixByte_of_page1 {b : Byte} {sh : Shape} (h : page1 b = some sh) : b ≠ prefixByte := by
  rintro rfl
  cases h

/-- The opcode of what decodes at PC selects its shape, and the operand bytes behind it fill the shape. -/
theorem fetchShape_settled {s : State} {n : Nat} {i : Instr} (h : s.Settled n)
    (hdecode : decode (bytesAt s.mem s.pc n) = .ok (i, [])) :
    ∃ sh t, fetchShape s = .ok (sh, t) ∧ fetchOperands sh t = .ok (i, s.setPc (s.pc + BitVec.ofNat 16 n)) := by
  rcases decode_eq_ok hdecode with ⟨b, l, sh, hbytes, hpage, hfill⟩ | ⟨b, l, sh, hbytes, hpage, hfill⟩
  case inl =>
    match n with
    | 0 => cases hbytes
    | n + 1 =>
      obtain ⟨rfl, rfl⟩ := List.cons.inj hbytes
      have hprefix := ne_prefixByte_of_page1 hpage
      refine ⟨sh, s.setPc (s.pc + 1), ?shape, ?operands⟩
      case shape => simp only [fetchShape, h.fetchByte, bind, Except.bind, if_neg hprefix, hpage]; rfl
      case operands => rw [← add_one_add_ofNat]; exact fetchOperands_settled h.tail hfill
  case inr =>
    match n with
    | 0 | 1 => simp [bytesAt] at hbytes
    | n + 2 =>
      obtain ⟨hprefix, htail⟩ := List.cons.inj hbytes
      obtain ⟨rfl, rfl⟩ := List.cons.inj htail
      refine ⟨sh, (s.setPc (s.pc + 1)).setPc (s.pc + 1 + 1), ?shape, ?operands⟩
      case shape =>
        simp only [fetchShape, h.fetchByte, bind, Except.bind, if_pos hprefix, h.tail.fetchByte]
        simp only [State.setPc_mem, State.setPc_pc, hpage]
        rfl
      case operands =>
        rw [← add_one_add_ofNat, ← add_one_add_ofNat]
        exact fetchOperands_settled h.tail.tail hfill

/-- No open byte lies among settled ones, so a fetch of them settles only what was written at its start as `PCnext`. -/
theorem State.Settled.staleBeyond {s : State} {n : Nat} (h : s.Settled n) (hn : n ≤ 4) :
    (s.setPc (s.pc + BitVec.ofNat 16 n)).staleBeyond s.pc = s.stale.filter fun e => decide (e.next ≠ s.pc) := by
  refine List.filter_congr fun e he => decide_eq_decide.mpr (and_iff_left ?_)
  have hlength : (s.pc + BitVec.ofNat 16 n - s.pc).toNat = n := by
    rw [add_sub_cancel_left, BitVec.toNat_ofNat]
    omega
  rw [State.setPc_pc, hlength]
  by_contra hinside
  have haddr : e.addr = s.pc + BitVec.ofNat 16 (e.addr - s.pc).toNat := by
    rw [BitVec.ofNat_toNat, BitVec.setWidth_eq, add_sub_cancel]
  exact State.staleAt_eq_none.mp (h _ (Nat.lt_of_not_le hinside)).2 e he haddr

/-- The bytes at PC are fetched as the instruction they decode to, and PC moves to the byte after it (R26, R82). -/
theorem fetchInstr_settled {s : State} {n : Nat} {i : Instr} (h : s.Settled n)
    (hdecode : decode (bytesAt s.mem s.pc n) = .ok (i, [])) :
    fetchInstr s = .ok (i, (s.setPc (s.pc + BitVec.ofNat 16 n)).setStale
      (s.stale.filter fun e => decide (e.next ≠ s.pc))) := by
  obtain ⟨sh, t, hshape, hoperands⟩ := fetchShape_settled h hdecode
  have hn : n ≤ 4 := decode_bytesAt_length hdecode ▸ lengthFrom_le _ _
  simp only [fetchInstr, hshape, bind, Except.bind, hoperands, h.staleBeyond hn]
  rfl

/-- Settles O47: the sample leaves the bytes at PC as they are, so the instruction they decode to is fetched. -/
theorem stepRunsTheDecodedInstruction : Obligations.StepRunsTheDecodedInstruction := by
  intro s i n hreset hinterrupt hmode hbytes hdecode
  have hsettled : (s.sampled.setInhibitNext false).Settled n := by
    intro k hk
    rw [State.isMemory, State.kindAt_congr (s := s) (by simp)]
    simpa [State.staleAt] using hbytes k hk
  have hfetch := fetchInstr_settled hsettled (by simpa using hdecode)
  rw [State.setInhibitNext_pc, State.sampled_pc, State.setInhibitNext_stale, State.sampled_stale] at hfetch
  have hrunning : (s.sampled.setInhibitNext false).mode = .running := by simpa using hmode
  rw [step_of_no_interrupt hreset hinterrupt, proceed, hrunning, runInstr, hfetch]
  rfl

/-! ## The invariant (R317) -/

namespace State.Inv

variable {i : Instr} {s t : State}

/-- What leaves memory alone and adds no request and no open byte keeps the invariant, the idle modes seen to. -/
theorem of_sublist (hs : s.Inv) (hmem : t.mem = s.mem) (hstale : t.stale.Sublist s.stale)
    (hpending : t.pending.Sublist s.pending) (hplatform : t.platform = s.platform)
    (hidle : t.mode ≠ .running → t.ccr.i = false ∧ t.inhibitNext = false) : t.Inv where
  mem := hmem ▸ hs.mem
  idle := hidle
  pending p hp := hplatform ▸ hs.pending p (hpending.subset hp)
  distinct := hpending.nodup hs.distinct
  stale e he := hmem ▸ hs.stale e (hstale.subset he)
  staleOnce := (hstale.map _).nodup hs.staleOnce

theorem sampled_pending (hs : s.Inv) :
    (∀ p ∈ s.sampled.pending, p ∈ s.platform.intSources) ∧ s.sampled.pending.Nodup := by
  unfold State.sampled
  split
  · exact ⟨hs.pending, hs.distinct⟩
  · exact mergeRequests_inv _ _ _ _ hs.pending hs.distinct

theorem sampled (hs : s.Inv) : s.sampled.Inv where
  mem := by simpa using hs.mem
  idle := by simpa using hs.idle
  pending := by simpa using hs.sampled_pending.1
  distinct := hs.sampled_pending.2
  stale := by simpa using hs.stale
  staleOnce := by simpa using hs.staleOnce

theorem endDelay (hs : s.Inv) : (s.setInhibitNext false).Inv :=
  hs.of_sublist rfl (.refl _) (.refl _) rfl fun hmode => ⟨(hs.idle hmode).1, rfl⟩

theorem acknowledge (hs : s.Inv) (p : Config.IntSource) : (s.acknowledge p).Inv := by
  refine hs.of_sublist (by simp) (by simp) ?_ (by simp) (by simpa using hs.idle)
  rw [State.acknowledge_pending]
  split
  · exact List.filter_sublist
  · exact .refl _

theorem chargeFree (hs : s.Inv) : s.chargeFree.Inv := hs.of_sublist rfl (.refl _) (.refl _) rfl hs.idle

theorem takeReset (hs : s.Inv) (h : takeReset s = .ok t) : t.Inv := by
  obtain ⟨-, -, rfl⟩ := jumpVector_ok.mp h
  exact hs.of_sublist (by simp) (by simp) (by simp) (by simp) (by simp)

theorem fetchInstr (hs : s.Inv) (h : fetchInstr s = .ok (i, t)) : t.Inv := by
  obtain ⟨_, ⟨n, pc, -, rfl⟩, rfl⟩ := fetchInstr_fetched h
  exact hs.of_sublist rfl (State.staleBeyond_sublist _ _) (.refl _) rfl hs.idle

end State.Inv

section Stores

variable {i : Instr} {stored : List Addr} {s t : State}

/-- A byte still open after the stores was open before them, and memory holds what it held there: a store to it would
have settled it. -/
theorem read_of_mem_stale (hw : WritesOnly i stored s t) (hm : ByStores s t) {e : StaleByte} (he : e ∈ t.stale) :
    e ∈ s.stale ∧ t.mem.read e.addr.toNat = s.mem.read e.addr.toNat := by
  rw [hw.stale, State.mem_staleOutside] at he
  obtain ⟨hopen, hkept⟩ := he
  refine ⟨hopen, ?_⟩
  by_cases hstored : e.addr ∈ stored
  · exact hm.mem.read_of_not_ram fun hram => hkept ⟨hstored, hram⟩
  · exact hw.mem _ hstored

/-- What stores to RAM, and otherwise writes no hidden state, keeps the invariant, the idle modes seen to. -/
theorem State.Inv.of_writes (hs : s.Inv) (hw : WritesOnly i stored s t) (hm : ByStores s t)
    (hidle : t.mode ≠ .running → t.ccr.i = false ∧ t.inhibitNext = false) : t.Inv where
  mem := hm.mem.wf hs.mem
  idle := hidle
  pending := by
    rw [hw.pending, hw.platform]
    exact hs.pending
  distinct := hw.pending ▸ hs.distinct
  stale e he := by
    obtain ⟨hopen, hread⟩ := read_of_mem_stale hw hm he
    exact hread ▸ hs.stale e hopen
  staleOnce := by
    rw [hw.stale]
    exact ((State.staleOutside_sublist s stored).map _).nodup hs.staleOnce

/-- The bytes that an instruction overwrote at its own `PCnext` are recorded once each. -/
theorem overwritten_addr_nodup (s t : State) : ((overwritten s t).map StaleByte.addr).Nodup := by
  rw [List.Nodup, List.pairwise_map, overwritten, List.pairwise_filterMap]
  refine List.pairwise_lt_range.imp_of_mem fun {j k} hj hk hjk e he f hf haddr => ?_
  have hle := nextLength_le s t
  rw [List.mem_range] at hj hk
  simp only [Option.ite_none_left_eq_some, Option.some.injEq] at he hf
  obtain ⟨-, rfl⟩ := he
  obtain ⟨-, rfl⟩ := hf
  have hoffset : BitVec.ofNat 16 j = BitVec.ofNat 16 k := add_left_cancel haddr
  have hnat := congrArg BitVec.toNat hoffset
  rw [BitVec.toNat_ofNat, BitVec.toNat_ofNat] at hnat
  omega

/-- What `retire` records keeps the invariant: memory holds another value there, which no byte open from before does. -/
theorem State.Inv.retire (ht : t.Inv) (hw : WritesOnly i stored s t) (hm : ByStores s t) : (retire i s t).Inv where
  mem := ht.mem
  idle := ht.idle
  pending := ht.pending
  distinct := ht.distinct
  stale e he := by
    rcases List.mem_append.mp he with hnew | hopen
    · obtain ⟨hchanged, hinside⟩ := changed_of_mem_overwritten hnew
      have hle := nextLength_le s t
      have hnext : e.next = s.pc := by
        obtain ⟨k, -, -, rfl⟩ := mem_overwritten.mp hnew
        rfl
      exact ⟨old_of_mem_overwritten hnew ▸ hchanged.symm, hnext ▸ by omega⟩
    · exact ht.stale e hopen
  staleOnce := by
    rw [retire_stale, List.map_append, List.nodup_append]
    refine ⟨overwritten_addr_nodup s t, ht.staleOnce, ?_⟩
    simp only [List.mem_map]
    rintro _ ⟨e, he, rfl⟩ _ ⟨f, hf, rfl⟩ haddr
    exact (changed_of_mem_overwritten he).1 (haddr ▸ (read_of_mem_stale hw hm hf).2)

theorem byStores_of_trapEntry {vector ret : Addr} (h : trapEntry vector ret s = .ok t) : ByStores s t := by
  have hfrom := trapEntry_from (.refl s) vector ret
  rw [h] at hfrom
  exact hfrom

theorem State.Inv.trapEntry (hs : s.Inv) {vector ret : Addr} (h : trapEntry vector ret s = .ok t) : t.Inv :=
  hs.of_writes (trapEntry_writesOnly h) (byStores_of_trapEntry h) fun hmode => absurd (trapEntry_mode h) hmode

theorem writesMode_iff : writesMode i = true ↔ i = .wait ∨ i = .stop ∨ i = .swi := by
  cases i <;> simp [writesMode]

/-- An instruction that ends the running of a machine without a CLI delay has cleared the mask (R316). -/
theorem exec_idle (h : exec i s = .next t) (hrunning : s.mode = .running) (hdelay : s.inhibitNext = false)
    (hidle : t.mode ≠ .running) : t.ccr.i = false ∧ t.inhibitNext = false := by
  have hw := exec_writesOnly h
  cases hmode : writesMode i with
  | false => exact absurd ((hw.mode hmode).trans hrunning) hidle
  | true =>
    rcases writesMode_iff.mp hmode with rfl | rfl | rfl
    · exact ⟨by rw [next_inj h]; rfl, (hw.inhibitNext (by simp)).trans hdelay⟩
    · exact ⟨by rw [exec_stop_next h]; rfl, (hw.inhibitNext (by simp)).trans hdelay⟩
    · exact absurd (trapEntry_mode (answer_next.mp h)) hidle

/-- An instruction of a running machine without a CLI delay keeps the invariant, with what the step adds after it. -/
theorem State.Inv.exec (hs : s.Inv) (hrunning : s.mode = .running) (hdelay : s.inhibitNext = false)
    (h : exec i s = .next t) : (Machine.retire i s t).Inv := by
  have hw := exec_writesOnly h
  have hm := (exec_from i s).next t h
  exact (hs.of_writes hw hm (exec_idle h hrunning hdelay)).retire hw hm

end Stores

/-- Settles O58: the case analysis of a step, each case carried by the lemma on its parts. -/
theorem everyStepKeepsTheInvariant : Obligations.EveryStepKeepsTheInvariant := by
  intro s t hs h
  have hsampled := hs.sampled
  have hready := hsampled.endDelay
  rcases step_next h with ⟨-, hreset⟩ | ⟨-, p, -, hint⟩ | ⟨-, -, hmode, i, u, v, hfetch, hexec, rfl⟩ | ⟨-, -, -, rfl⟩
  case inl => exact hsampled.takeReset hreset
  case inr.inl => exact (hready.acknowledge p).chargeFree.trapEntry hint
  case inr.inr.inl =>
    obtain ⟨_, ⟨n, pc, -, rfl⟩, rfl⟩ := fetchInstr_fetched hfetch
    exact (hready.fetchInstr hfetch).exec (by simpa using hmode) (by simp) hexec
  case inr.inr.inr => exact hready

end Sys2Proof.Machine
end

section
/-! PROOFS for 70_reset_and_hazards.md: CBEQ with its post-increment (R351), the step that takes a reset (R340), the
step after CLI (R344), and the bus cycles of a step and of each group of the cycle table (R352). -/

namespace Sys2Proof.Machine

/-! ## Compare and branch if equal (R265, R351) -/

/-- A branch on the equality of two bytes. -/
theorem State.branchIf_beq (s : State) (p q rr : Byte) :
    s.branchIf (p == q) rr = { s with pc := if p = q then BitVec.ofInt 16 (s.pc.toNat + rr.toInt) else s.pc } := by
  simp only [State.branchIf_eq, beq_iff_eq]

theorem exec_cbeq_of_answers {m : CbeqMode} {rr : Byte} {s : State} (h : s.answers (ea (cbeqMem m) s) = true) :
    exec (.cbeq m rr) s = .next ((cbeqIncrement m (s.afterRead (ea (cbeqMem m) s))).branchIf
      (s.a == s.byteAt (ea (cbeqMem m) s)) rr) := by
  refine answer_next.mpr ?_
  simp only [bind_ok, readByte_ok, pure_ok]
  exact ⟨_, ⟨h, rfl⟩, by simp⟩

theorem cbeqIncrement_of_plus {m : CbeqMode} (h : m = .ixPlus ∨ ∃ ff, m = .ix1Plus ff) (s : State) :
    cbeqIncrement m s = s.bumpHx := by
  obtain rfl | ⟨ff, rfl⟩ := h <;> rfl

theorem cbeqIncrement_of_not_plus {m : CbeqMode} (h : ¬ (m = .ixPlus ∨ ∃ ff, m = .ix1Plus ff)) (s : State) :
    cbeqIncrement m s = s := by
  cases m with
  | dir dd => rfl
  | ixPlus => exact absurd (.inl rfl) h
  | ix1Plus ff => exact absurd (.inr ⟨ff, rfl⟩) h
  | sp1 ff => rfl

/-- Settles O31: the increment comes before the branch, so both outcomes have it; A and PC are those before it. -/
theorem compareAndBranchIfEqual : Obligations.CompareAndBranchIfEqual := by
  refine ⟨fun m rr s h => ⟨fun hplus => ?plus, fun hplus => ?other⟩, fun ii rr s => ⟨?cbeqa, ?cbeqx⟩⟩
  case plus =>
    rw [exec_cbeq_of_answers h, cbeqIncrement_of_plus hplus, State.branchIf_beq, State.bumpHx_eq]
    simp
  case other =>
    rw [exec_cbeq_of_answers h, cbeqIncrement_of_not_plus hplus, State.branchIf_beq, State.afterRead_pc]
  case cbeqa => exact congrArg _ (s.branchIf_beq s.a ii rr)
  case cbeqx => exact congrArg _ (s.branchIf_beq s.x ii rr)

/-! ## The step that takes a reset (R340) -/

theorem step_of_reset {s : State} (h : s.sampled.resetRequested = true) : step s = answer (takeReset s.sampled) :=
  if_pos h

/-- A reset through a vector in memory writes its registers, and the model's count of cycles and draws (log 28). -/
theorem takeReset_memory {s : State} (h1 : s.isMemory 0xFFFE) (h2 : s.isMemory 0xFFFF) :
    takeReset s = .ok { s with
      h := 0x00, sp := 0x00FF, ccr := { s.ccr with i := true }, mode := .running, inhibitNext := false
      pc := word (s.mem.read 0xFFFE) (s.mem.read 0xFFFF)
      cycles := s.cycles + Config.freeCycles s.draws, draws := s.draws + 1 } :=
  jumpVector_memory h1 h2

/-- Settles O55: the reset of the sampled state, whose registers, flags and memory are the state's own. -/
theorem resetStepWritesOnlyItsRegisters : Obligations.ResetStepWritesOnlyItsRegisters := by
  intro s hreset h1 h2
  have hkind (a : Addr) : s.sampled.kindAt a = s.kindAt a := State.kindAt_congr s.sampled_platform a
  have htaken := takeReset_memory (s := s.sampled) (by rwa [State.isMemory, hkind]) (by rwa [State.isMemory, hkind])
  refine ⟨_, (step_of_reset hreset).trans (answer_next.mpr htaken), ?_⟩
  simp

/-! ## The step after CLI (R208, R344) -/

theorem exec_cli (s : State) : exec .cli s = .next ((s.setI false).setInhibitNext true) := rfl

/-- Settles O52: CLI starts the delay, and the delay holds every request for one step. -/
theorem instructionAfterCliRunsFirst : Obligations.InstructionAfterCliRunsFirst := by
  intro s t hcli hreset
  obtain rfl := next_inj (exec_cli s ▸ hcli)
  obtain ⟨hstep, -⟩ := maskAndCliDelayHoldInterrupts _ hreset (.inr rfl)
  exact ⟨rfl, hstep⟩

/-! ## Bus cycles (R352) -/

@[simp] theorem retire_cycles (i : Instr) (s t : State) : (retire i s t).cycles = t.cycles + cycles i := rfl

theorem fetchInstr_cycles {s t : State} {i : Instr} (h : fetchInstr s = .ok (i, t)) : t.cycles = s.cycles := by
  obtain ⟨_, ⟨n, pc, -, rfl⟩, rfl⟩ := fetchInstr_fetched h
  rfl

theorem step_of_instruction {s u v : State} {i : Instr} (hreset : s.sampled.resetRequested = false)
    (hnone : s.sampled.recognised = none) (hmode : s.mode = .running)
    (hfetch : fetchInstr (s.sampled.setInhibitNext false) = .ok (i, u)) (hexec : exec i u = .next v) :
    step s = .next (retire i u v) := by
  have hrunning : (s.sampled.setInhibitNext false).mode = .running := by simpa using hmode
  rw [step_of_no_interrupt hreset hnone, proceed, hrunning]
  simp only [runInstr, hfetch, hexec]

/-- Sampling, the fetch and the execution count no cycle; the step adds the instruction's. -/
theorem retire_cycles_of_fetch {s u v : State} {i : Instr}
    (hfetch : fetchInstr (s.sampled.setInhibitNext false) = .ok (i, u)) (hexec : exec i u = .next v) :
    (retire i u v).cycles = s.cycles + cycles i := by
  rw [retire_cycles, (exec_writesOnly hexec).cycles, fetchInstr_cycles hfetch]
  simp

/-- Settles O60: the step adds the cycles of the instruction it runs. Each group of the table is one function of the
operand form, on which its figures are read off. -/
theorem instructionsAddTheirBusCycles : Obligations.InstructionsAddTheirBusCycles := by
  refine ⟨?step, ?operand, ?store, ?modify, ?clearTest, ?one, ?two, ?words, ?fixed, ?bits, ?branches, ?loops, ?jumps⟩
  case step =>
    intro s t u v i h hreset hnone hmode hfetch hexec
    obtain rfl := next_inj ((step_of_instruction hreset hnone hmode hfetch hexec).symm.trans h)
    exact retire_cycles_of_fetch hfetch hexec
  case operand =>
    intro f hf b w
    have hgroup : ∀ m, cycles (f m) = srcCycles m := by fin_cases hf <;> exact fun _ => rfl
    simp [hgroup, srcCycles, memCycles]
  case store =>
    intro f hf b w
    have hgroup : ∀ m, cycles (f m) = memCycles m := by fin_cases hf <;> exact fun _ => rfl
    simp [hgroup, memCycles]
  case modify =>
    intro f hf b
    have hgroup : ∀ m, cycles (f m) = rmwCycles m := by fin_cases hf <;> exact fun _ => rfl
    simp [hgroup, rmwCycles]
  case clearTest =>
    intro f hf b
    have hgroup : ∀ m, cycles (f m) = clrTstCycles m := by fin_cases hf <;> exact fun _ => rfl
    simp [hgroup, clrTstCycles]
  case one => decide
  case two => decide
  case words => simp [cycles, src16Cycles, movCycles]
  case fixed => simp [cycles]
  case bits => simp [cycles]
  case branches =>
    intro f hf rr
    fin_cases hf <;> rfl
  case loops => simp [cycles, cbeqCycles, dbnzCycles]
  case jumps => simp [cycles, jmpCycles, jsrCycles]

end Sys2Proof.Machine
end
